-- ==== Sys2Proof/Word.lean ====
section
/-! DEFINITION. The word of N2TDbg CORE (spec/00_scope.md R5: WORD_BITS = 16). -/

namespace Sys2Proof

/-- A `u16`: an instruction word, a cell of ROM or RAM, a register, an ALU operand or result
(spec/00_scope.md R5 and section 5, Widths). -/
abbrev Word := BitVec 16

end Sys2Proof
end

