-- ==== Sys2Proof/Config.lean ====
section
/-! DEFINITION. What the source leaves open and the spec makes a parameter (spec/00_scope.md R6), with the
defaults the spec decides. The configuration is fixed for a machine and is no part of its state (R8 item 2). -/

namespace Sys2Proof

/-- CTRL_MAP: the bit of the destination mask that feeds `zx`, `nx`, `zy`, and the bit of the computation
code that feeds `ny`, `f`, `no` (spec/00_scope.md R6, spec/43_c_instruction.md R102). -/
structure CtrlMap where
  zx : Fin 3
  nx : Fin 3
  zy : Fin 3
  ny : Fin 6
  f : Fin 6
  no : Fin 6
  deriving DecidableEq, Repr

/-- The parameters of spec/00_scope.md R6. -/
structure Config where
  /-- CTRL_MAP (D1). -/
  ctrlMap : CtrlMap
  /-- JUMP_SIGNED (D2): whether the jump comparison reads `value` as a signed number. -/
  jumpSigned : Bool
  /-- RAM_CELL_BITS (D3): the width of a RAM cell; a width above 16 keeps every word whole, as 16 does. -/
  ramCellBits : Nat
  /-- RESET_PC, RESET_A, RESET_D (D5). -/
  resetPc : Word
  resetA : Word
  resetD : Word
  /-- EXTERNAL_RAM (D11): whether an external owner supplies and shares the RAM. -/
  externalRam : Bool
  deriving DecidableEq, Repr

/-- UNVERIFIED (notes/assumptions/1.md): the default CTRL_MAP, the spec's decision D1. -/
def CtrlMap.default : CtrlMap :=
  { zx := 2, nx := 1, zy := 0, ny := 2, f := 1, no := 0 }

/-- UNVERIFIED (notes/assumptions/1.md to 6.md): the defaults of spec/00_scope.md R6, the spec's decisions
D1, D2, D3, D5, D11. `exec`, `step` and `State.reset` are those of the machine with this configuration. -/
def Config.default : Config :=
  { ctrlMap := CtrlMap.default, jumpSigned := true, ramCellBits := 16,
    resetPc := 0, resetA := 0, resetD := 0, externalRam := false }

end Sys2Proof
end

