-- ==== Sys2Proof/Syntax.lean ====
section
/-! DEFINITION. What the machine executes: the instruction record of spec/40_decoder.md R71, and `Instr`, with one
constructor per row of spec/opcode_table.json (spec/30_encoding.md R63). The rows `C.dest=...`, `C.jump=...` and
`comp_...` refine the row `C` and overlap it: a constructor of one of them is the compute-instruction READ UNDER
THAT ROW, and `Instr.record` (Decode.lean) is the record it stands for. -/

namespace Sys2Proof

/-- The instruction record, a tagged union (spec/40_decoder.md R71). -/
inductive Record where
  | address (operand : BitVec 15)
  | compute (a : BitVec 1) (comp : BitVec 6) (dest : BitVec 3) (jump : BitVec 3)
  deriving DecidableEq, Repr

/-- The two error classes of a rejected host operation (spec/60_exceptions.md R161, R162); no step raises either
(R163). -/
inductive HostError where
  | rangeError
  | syntaxError
  deriving DecidableEq, Repr

/-- A row of the opcode table: its mnemonic, and the mask and match value of the words it covers
(spec/30_encoding.md R63). -/
structure Row where
  mnemonic : String
  mask : Word
  pattern : Word
  deriving DecidableEq, Repr

/-- The instruction set, one constructor per row of spec/opcode_table.json. A mnemonic names a bit pattern and says
nothing about what the hardware computes (spec/44_assembler_and_load.md R141). -/
inductive Instr where
  /-- Row `A`, the address-instruction (R97). -/
  | aInstr (operand : BitVec 15)
  /-- Row `C`, the compute-instruction (R123). -/
  | cInstr (a : BitVec 1) (comp : BitVec 6) (dest : BitVec 3) (jump : BitVec 3)
  /-- Row `C.dest=none`: `C` with dest = 0b000#3 (R108). -/
  | cDestNone (a : BitVec 1) (comp : BitVec 6) (jump : BitVec 3)
  /-- Row `C.dest=M`: `C` with dest = 0b001#3 (R108). -/
  | cDestM (a : BitVec 1) (comp : BitVec 6) (jump : BitVec 3)
  /-- Row `C.dest=D`: `C` with dest = 0b010#3 (R108). -/
  | cDestD (a : BitVec 1) (comp : BitVec 6) (jump : BitVec 3)
  /-- Row `C.dest=MD`: `C` with dest = 0b011#3 (R108). -/
  | cDestMD (a : BitVec 1) (comp : BitVec 6) (jump : BitVec 3)
  /-- Row `C.dest=A`: `C` with dest = 0b100#3 (R108). -/
  | cDestA (a : BitVec 1) (comp : BitVec 6) (jump : BitVec 3)
  /-- Row `C.dest=AM`: `C` with dest = 0b101#3 (R108). -/
  | cDestAM (a : BitVec 1) (comp : BitVec 6) (jump : BitVec 3)
  /-- Row `C.dest=AD`: `C` with dest = 0b110#3 (R108). -/
  | cDestAD (a : BitVec 1) (comp : BitVec 6) (jump : BitVec 3)
  /-- Row `C.dest=AMD`: `C` with dest = 0b111#3 (R108). -/
  | cDestAMD (a : BitVec 1) (comp : BitVec 6) (jump : BitVec 3)
  /-- Row `C.jump=none`: `C` with jump = 0b000#3 (R111). -/
  | cJumpNone (a : BitVec 1) (comp : BitVec 6) (dest : BitVec 3)
  /-- Row `C.jump=JGT`: `C` with jump = 0b001#3 (R112). -/
  | cJumpJGT (a : BitVec 1) (comp : BitVec 6) (dest : BitVec 3)
  /-- Row `C.jump=JEQ`: `C` with jump = 0b010#3 (R113). -/
  | cJumpJEQ (a : BitVec 1) (comp : BitVec 6) (dest : BitVec 3)
  /-- Row `C.jump=JGE`: `C` with jump = 0b011#3 (R114). -/
  | cJumpJGE (a : BitVec 1) (comp : BitVec 6) (dest : BitVec 3)
  /-- Row `C.jump=JLT`: `C` with jump = 0b100#3 (R115). -/
  | cJumpJLT (a : BitVec 1) (comp : BitVec 6) (dest : BitVec 3)
  /-- Row `C.jump=JNE`: `C` with jump = 0b101#3 (R116). -/
  | cJumpJNE (a : BitVec 1) (comp : BitVec 6) (dest : BitVec 3)
  /-- Row `C.jump=JLE`: `C` with jump = 0b110#3 (R117). -/
  | cJumpJLE (a : BitVec 1) (comp : BitVec 6) (dest : BitVec 3)
  /-- Row `C.jump=JMP`: `C` with jump = 0b111#3 (R118). -/
  | cJumpJMP (a : BitVec 1) (comp : BitVec 6) (dest : BitVec 3)
  /-- Row `comp_0`: `C` with the 7-bit code of the text `0`, 42 (R140). -/
  | comp0 (dest : BitVec 3) (jump : BitVec 3)
  /-- Row `comp_1`: `C` with the 7-bit code of the text `1`, 63 (R140). -/
  | comp1 (dest : BitVec 3) (jump : BitVec 3)
  /-- Row `comp_-1`: `C` with the 7-bit code of the text `-1`, 58 (R140). -/
  | compNeg1 (dest : BitVec 3) (jump : BitVec 3)
  /-- Row `comp_D`: `C` with the 7-bit code of the text `D`, 12 (R140). -/
  | compD (dest : BitVec 3) (jump : BitVec 3)
  /-- Row `comp_A`: `C` with the 7-bit code of the text `A`, 48 (R140). -/
  | compA (dest : BitVec 3) (jump : BitVec 3)
  /-- Row `comp__D`: `C` with the 7-bit code of the text `!D`, 13 (R140). -/
  | compNotD (dest : BitVec 3) (jump : BitVec 3)
  /-- Row `comp__A`: `C` with the 7-bit code of the text `!A`, 49 (R140). -/
  | compNotA (dest : BitVec 3) (jump : BitVec 3)
  /-- Row `comp_-D`: `C` with the 7-bit code of the text `-D`, 15 (R140). -/
  | compNegD (dest : BitVec 3) (jump : BitVec 3)
  /-- Row `comp_-A`: `C` with the 7-bit code of the text `-A`, 51 (R140). -/
  | compNegA (dest : BitVec 3) (jump : BitVec 3)
  /-- Row `comp_D+1`: `C` with the 7-bit code of the text `D+1`, 31 (R140). -/
  | compDPlus1 (dest : BitVec 3) (jump : BitVec 3)
  /-- Row `comp_A+1`: `C` with the 7-bit code of the text `A+1`, 55 (R140). -/
  | compAPlus1 (dest : BitVec 3) (jump : BitVec 3)
  /-- Row `comp_D-1`: `C` with the 7-bit code of the text `D-1`, 14 (R140). -/
  | compDMinus1 (dest : BitVec 3) (jump : BitVec 3)
  /-- Row `comp_A-1`: `C` with the 7-bit code of the text `A-1`, 50 (R140). -/
  | compAMinus1 (dest : BitVec 3) (jump : BitVec 3)
  /-- Row `comp_D+A`: `C` with the 7-bit code of the text `D+A`, 2 (R140). -/
  | compDPlusA (dest : BitVec 3) (jump : BitVec 3)
  /-- Row `comp_D-A`: `C` with the 7-bit code of the text `D-A`, 19 (R140). -/
  | compDMinusA (dest : BitVec 3) (jump : BitVec 3)
  /-- Row `comp_A-D`: `C` with the 7-bit code of the text `A-D`, 7 (R140). -/
  | compAMinusD (dest : BitVec 3) (jump : BitVec 3)
  /-- Row `comp_D_A`: `C` with the 7-bit code of the text `D&A`, 0 (R140). -/
  | compDAndA (dest : BitVec 3) (jump : BitVec 3)
  /-- Row `comp_D_A_2`: `C` with the 7-bit code of the text `D|A`, 21 (R140). -/
  | compDOrA (dest : BitVec 3) (jump : BitVec 3)
  /-- Row `comp_M`: `C` with the 7-bit code of the text `M`, 112 (R140). -/
  | compM (dest : BitVec 3) (jump : BitVec 3)
  /-- Row `comp__M`: `C` with the 7-bit code of the text `!M`, 113 (R140). -/
  | compNotM (dest : BitVec 3) (jump : BitVec 3)
  /-- Row `comp_-M`: `C` with the 7-bit code of the text `-M`, 115 (R140). -/
  | compNegM (dest : BitVec 3) (jump : BitVec 3)
  /-- Row `comp_M+1`: `C` with the 7-bit code of the text `M+1`, 119 (R140). -/
  | compMPlus1 (dest : BitVec 3) (jump : BitVec 3)
  /-- Row `comp_M-1`: `C` with the 7-bit code of the text `M-1`, 114 (R140). -/
  | compMMinus1 (dest : BitVec 3) (jump : BitVec 3)
  /-- Row `comp_D+M`: `C` with the 7-bit code of the text `D+M`, 66 (R140). -/
  | compDPlusM (dest : BitVec 3) (jump : BitVec 3)
  /-- Row `comp_D-M`: `C` with the 7-bit code of the text `D-M`, 83 (R140). -/
  | compDMinusM (dest : BitVec 3) (jump : BitVec 3)
  /-- Row `comp_M-D`: `C` with the 7-bit code of the text `M-D`, 71 (R140). -/
  | compMMinusD (dest : BitVec 3) (jump : BitVec 3)
  /-- Row `comp_D_M`: `C` with the 7-bit code of the text `D&M`, 64 (R140). -/
  | compDAndM (dest : BitVec 3) (jump : BitVec 3)
  /-- Row `comp_D_M_2`: `C` with the 7-bit code of the text `D|M`, 85 (R140). -/
  | compDOrM (dest : BitVec 3) (jump : BitVec 3)
  deriving DecidableEq, Repr

end Sys2Proof
end

