-- ==== Sys2Proof/WellFormed.lean ====
section
/-! DEFINITION. Which instructions the decoder names. Rows of the opcode table overlap (spec/30_encoding.md R63), so
one compute-instruction can be read under several constructors; the decoder uses exactly one of them, and
`Instr.wellFormed` says which. DESIGN CHOICE (notes/assumptions/8.md): the spec gives no such choice, and no
behaviour depends on it, since every constructor has its meaning for every value of its fields. -/

namespace Sys2Proof

/-- The 28 values of `{a, comp}` = word[12:6] that have a mnemonic (spec/44_assembler_and_load.md R140). -/
def mnemonicCodes : List (BitVec 7) :=
  [42, 63, 58, 12, 48, 13, 49, 15, 51, 31, 55, 14, 50, 2,
   19, 7, 0, 21, 112, 113, 115, 119, 114, 66, 83, 71, 64, 85]

/-- Whether the assembler has a mnemonic for `{a, comp}` (spec/30_encoding.md R61). -/
def hasMnemonic (a : BitVec 1) (comp : BitVec 6) : Bool :=
  mnemonicCodes.contains (a ++ comp)

/-- The decoder's name of a compute-instruction: row `C` when it has both a destination and a jump; its `C.dest=`
row when it has a destination only; its `C.jump=` row when it has a jump only; with neither, the row of its
mnemonic, and where it has none, `C.dest=none` for a = 0 and `C.jump=none` for a = 1. -/
def Instr.wellFormed : Instr → Bool
  | .aInstr _ => true
  | .cInstr _ _ dest jump => dest != 0 && jump != 0
  | .cDestNone a comp jump => jump == 0 && a == 0 && !hasMnemonic a comp
  | .cDestM _ _ jump => jump == 0
  | .cDestD _ _ jump => jump == 0
  | .cDestMD _ _ jump => jump == 0
  | .cDestA _ _ jump => jump == 0
  | .cDestAM _ _ jump => jump == 0
  | .cDestAD _ _ jump => jump == 0
  | .cDestAMD _ _ jump => jump == 0
  | .cJumpNone a comp dest => dest == 0 && a == 1 && !hasMnemonic a comp
  | .cJumpJGT _ _ dest => dest == 0
  | .cJumpJEQ _ _ dest => dest == 0
  | .cJumpJGE _ _ dest => dest == 0
  | .cJumpJLT _ _ dest => dest == 0
  | .cJumpJNE _ _ dest => dest == 0
  | .cJumpJLE _ _ dest => dest == 0
  | .cJumpJMP _ _ dest => dest == 0
  | .comp0 dest jump => dest == 0 && jump == 0
  | .comp1 dest jump => dest == 0 && jump == 0
  | .compNeg1 dest jump => dest == 0 && jump == 0
  | .compD dest jump => dest == 0 && jump == 0
  | .compA dest jump => dest == 0 && jump == 0
  | .compNotD dest jump => dest == 0 && jump == 0
  | .compNotA dest jump => dest == 0 && jump == 0
  | .compNegD dest jump => dest == 0 && jump == 0
  | .compNegA dest jump => dest == 0 && jump == 0
  | .compDPlus1 dest jump => dest == 0 && jump == 0
  | .compAPlus1 dest jump => dest == 0 && jump == 0
  | .compDMinus1 dest jump => dest == 0 && jump == 0
  | .compAMinus1 dest jump => dest == 0 && jump == 0
  | .compDPlusA dest jump => dest == 0 && jump == 0
  | .compDMinusA dest jump => dest == 0 && jump == 0
  | .compAMinusD dest jump => dest == 0 && jump == 0
  | .compDAndA dest jump => dest == 0 && jump == 0
  | .compDOrA dest jump => dest == 0 && jump == 0
  | .compM dest jump => dest == 0 && jump == 0
  | .compNotM dest jump => dest == 0 && jump == 0
  | .compNegM dest jump => dest == 0 && jump == 0
  | .compMPlus1 dest jump => dest == 0 && jump == 0
  | .compMMinus1 dest jump => dest == 0 && jump == 0
  | .compDPlusM dest jump => dest == 0 && jump == 0
  | .compDMinusM dest jump => dest == 0 && jump == 0
  | .compMMinusD dest jump => dest == 0 && jump == 0
  | .compDAndM dest jump => dest == 0 && jump == 0
  | .compDOrM dest jump => dest == 0 && jump == 0

end Sys2Proof
end

