-- ==== Sys2Proof/Decode.lean ====
section
/-! DEFINITION. The instruction_decoder (spec/40_decoder.md): a word to its record, the record to the constructor of
`Instr` that names it, and back to a word. -/

namespace Sys2Proof

/-! ## Words and records -/

/-- `decode` of spec/40_decoder.md R72: bit 15 selects the variant; bits 14 and 13 of a compute word are read by
nothing (spec/30_encoding.md R54). -/
def decodeRecord (w : Word) : Record :=
  if w.getLsbD 15 = false then
    .address (w.extractLsb' 0 15)
  else
    .compute (w.extractLsb' 12 1) (w.extractLsb' 6 6) (w.extractLsb' 3 3) (w.extractLsb' 0 3)

/-- The software form of `decode`, whose argument can be wider than 16 bits: RangeError from 65536 on
(spec/40_decoder.md R75). -/
def decodeSoftware (w : Nat) : Except HostError Record :=
  if w < 65536 then .ok (decodeRecord (BitVec.ofNat 16 w)) else .error .rangeError

/-- `pack` of spec/40_decoder.md R77, the word the encoder builds (spec/30_encoding.md R62). -/
def pack : Record → Word
  | .address v => v.setWidth 16
  | .compute a comp dest jump =>
      0xE000#16 ||| (a.setWidth 16 <<< 12) ||| (comp.setWidth 16 <<< 6) ||| (dest.setWidth 16 <<< 3)
        ||| jump.setWidth 16

/-- The decoder's outputs in port form (spec/40_decoder.md R70). -/
structure DecoderPorts where
  isC : Bool
  operand : BitVec 15
  a : BitVec 1
  comp : BitVec 6
  dest : BitVec 3
  jump : BitVec 3
  deriving DecidableEq, Repr

/-- Every output is the raw slice of the word, whatever `is_c` is (spec/40_decoder.md R78). -/
def decoderPorts (w : Word) : DecoderPorts :=
  { isC := w.getLsbD 15, operand := w.extractLsb' 0 15, a := w.extractLsb' 12 1, comp := w.extractLsb' 6 6,
    dest := w.extractLsb' 3 3, jump := w.extractLsb' 0 3 }

/-! ## Records and constructors -/

/-- The record an instruction stands for: the fields its row fixes (spec/30_encoding.md R59, R60;
spec/44_assembler_and_load.md R140) and the fields it carries. -/
def Instr.record : Instr → Record
  | .aInstr operand => .address operand
  | .cInstr a comp dest jump => .compute a comp dest jump
  | .cDestNone a comp jump => .compute a comp 0b000#3 jump
  | .cDestM a comp jump => .compute a comp 0b001#3 jump
  | .cDestD a comp jump => .compute a comp 0b010#3 jump
  | .cDestMD a comp jump => .compute a comp 0b011#3 jump
  | .cDestA a comp jump => .compute a comp 0b100#3 jump
  | .cDestAM a comp jump => .compute a comp 0b101#3 jump
  | .cDestAD a comp jump => .compute a comp 0b110#3 jump
  | .cDestAMD a comp jump => .compute a comp 0b111#3 jump
  | .cJumpNone a comp dest => .compute a comp dest 0b000#3
  | .cJumpJGT a comp dest => .compute a comp dest 0b001#3
  | .cJumpJEQ a comp dest => .compute a comp dest 0b010#3
  | .cJumpJGE a comp dest => .compute a comp dest 0b011#3
  | .cJumpJLT a comp dest => .compute a comp dest 0b100#3
  | .cJumpJNE a comp dest => .compute a comp dest 0b101#3
  | .cJumpJLE a comp dest => .compute a comp dest 0b110#3
  | .cJumpJMP a comp dest => .compute a comp dest 0b111#3
  | .comp0 dest jump => .compute 0#1 0b101010#6 dest jump
  | .comp1 dest jump => .compute 0#1 0b111111#6 dest jump
  | .compNeg1 dest jump => .compute 0#1 0b111010#6 dest jump
  | .compD dest jump => .compute 0#1 0b001100#6 dest jump
  | .compA dest jump => .compute 0#1 0b110000#6 dest jump
  | .compNotD dest jump => .compute 0#1 0b001101#6 dest jump
  | .compNotA dest jump => .compute 0#1 0b110001#6 dest jump
  | .compNegD dest jump => .compute 0#1 0b001111#6 dest jump
  | .compNegA dest jump => .compute 0#1 0b110011#6 dest jump
  | .compDPlus1 dest jump => .compute 0#1 0b011111#6 dest jump
  | .compAPlus1 dest jump => .compute 0#1 0b110111#6 dest jump
  | .compDMinus1 dest jump => .compute 0#1 0b001110#6 dest jump
  | .compAMinus1 dest jump => .compute 0#1 0b110010#6 dest jump
  | .compDPlusA dest jump => .compute 0#1 0b000010#6 dest jump
  | .compDMinusA dest jump => .compute 0#1 0b010011#6 dest jump
  | .compAMinusD dest jump => .compute 0#1 0b000111#6 dest jump
  | .compDAndA dest jump => .compute 0#1 0b000000#6 dest jump
  | .compDOrA dest jump => .compute 0#1 0b010101#6 dest jump
  | .compM dest jump => .compute 1#1 0b110000#6 dest jump
  | .compNotM dest jump => .compute 1#1 0b110001#6 dest jump
  | .compNegM dest jump => .compute 1#1 0b110011#6 dest jump
  | .compMPlus1 dest jump => .compute 1#1 0b110111#6 dest jump
  | .compMMinus1 dest jump => .compute 1#1 0b110010#6 dest jump
  | .compDPlusM dest jump => .compute 1#1 0b000010#6 dest jump
  | .compDMinusM dest jump => .compute 1#1 0b010011#6 dest jump
  | .compMMinusD dest jump => .compute 1#1 0b000111#6 dest jump
  | .compDAndM dest jump => .compute 1#1 0b000000#6 dest jump
  | .compDOrM dest jump => .compute 1#1 0b010101#6 dest jump

/-- The 28 mnemonic codes with the constructor of each, without destination and jump
(spec/44_assembler_and_load.md R140). -/
def bareTable : List (BitVec 7 × Instr) :=
  [(42, .comp0 0 0),
   (63, .comp1 0 0),
   (58, .compNeg1 0 0),
   (12, .compD 0 0),
   (48, .compA 0 0),
   (13, .compNotD 0 0),
   (49, .compNotA 0 0),
   (15, .compNegD 0 0),
   (51, .compNegA 0 0),
   (31, .compDPlus1 0 0),
   (55, .compAPlus1 0 0),
   (14, .compDMinus1 0 0),
   (50, .compAMinus1 0 0),
   (2, .compDPlusA 0 0),
   (19, .compDMinusA 0 0),
   (7, .compAMinusD 0 0),
   (0, .compDAndA 0 0),
   (21, .compDOrA 0 0),
   (112, .compM 0 0),
   (113, .compNotM 0 0),
   (115, .compNegM 0 0),
   (119, .compMPlus1 0 0),
   (114, .compMMinus1 0 0),
   (66, .compDPlusM 0 0),
   (83, .compDMinusM 0 0),
   (71, .compMMinusD 0 0),
   (64, .compDAndM 0 0),
   (85, .compDOrM 0 0)]

/-- The name of a compute-instruction with neither destination nor jump (notes/assumptions/8.md). -/
def nameBare (a : BitVec 1) (comp : BitVec 6) : Instr :=
  match bareTable.lookup (a ++ comp) with
  | some i => i
  | none => if a = 0 then .cDestNone a comp 0 else .cJumpNone a comp 0

/-- The `C.dest=` row of a destination mask (spec/30_encoding.md R59). -/
def nameDest (a : BitVec 1) (comp : BitVec 6) (dest jump : BitVec 3) : Instr :=
  match dest.toNat with
  | 0 => .cDestNone a comp jump
  | 1 => .cDestM a comp jump
  | 2 => .cDestD a comp jump
  | 3 => .cDestMD a comp jump
  | 4 => .cDestA a comp jump
  | 5 => .cDestAM a comp jump
  | 6 => .cDestAD a comp jump
  | _ => .cDestAMD a comp jump

/-- The `C.jump=` row of a jump code (spec/30_encoding.md R60). -/
def nameJump (a : BitVec 1) (comp : BitVec 6) (dest jump : BitVec 3) : Instr :=
  match jump.toNat with
  | 0 => .cJumpNone a comp dest
  | 1 => .cJumpJGT a comp dest
  | 2 => .cJumpJEQ a comp dest
  | 3 => .cJumpJGE a comp dest
  | 4 => .cJumpJLT a comp dest
  | 5 => .cJumpJNE a comp dest
  | 6 => .cJumpJLE a comp dest
  | _ => .cJumpJMP a comp dest

/-- The constructor the decoder names a record by; `Instr.wellFormed` describes the choice
(notes/assumptions/8.md). -/
def Record.instr : Record → Instr
  | .address operand => .aInstr operand
  | .compute a comp dest jump =>
      if dest = 0 then
        if jump = 0 then nameBare a comp else nameJump a comp dest jump
      else if jump = 0 then nameDest a comp dest jump
      else .cInstr a comp dest jump

/-! ## Words and instructions -/

/-- The instruction a word stands for. Total: every 16-bit word is legal (spec/30_encoding.md R57). -/
def decode (w : Word) : Instr := (decodeRecord w).instr

/-- The word of an instruction (spec/30_encoding.md R62); one instruction is one word (R50). -/
def encode (i : Instr) : Word := pack i.record

/-- The host's question about a row of the opcode table: the instruction read from the bits `w`. A number of 65536 or
more is no instruction word (spec/40_decoder.md R75). -/
def decodeTableWord (_nbits w : Nat) : Option Instr :=
  match decodeSoftware w with
  | .ok r => some r.instr
  | .error _ => none

/-! ## The opcode table -/

/-- The row of each constructor, with the masks and match values of spec/opcode_table.json (spec/30_encoding.md
R63). -/
def Instr.row : Instr → Row
  | .aInstr _ => ⟨"A", 0x8000, 0x0000⟩
  | .cInstr _ _ _ _ => ⟨"C", 0x8000, 0x8000⟩
  | .cDestNone _ _ _ => ⟨"C.dest=none", 0x8038, 0x8000⟩
  | .cDestM _ _ _ => ⟨"C.dest=M", 0x8038, 0x8008⟩
  | .cDestD _ _ _ => ⟨"C.dest=D", 0x8038, 0x8010⟩
  | .cDestMD _ _ _ => ⟨"C.dest=MD", 0x8038, 0x8018⟩
  | .cDestA _ _ _ => ⟨"C.dest=A", 0x8038, 0x8020⟩
  | .cDestAM _ _ _ => ⟨"C.dest=AM", 0x8038, 0x8028⟩
  | .cDestAD _ _ _ => ⟨"C.dest=AD", 0x8038, 0x8030⟩
  | .cDestAMD _ _ _ => ⟨"C.dest=AMD", 0x8038, 0x8038⟩
  | .cJumpNone _ _ _ => ⟨"C.jump=none", 0x8007, 0x8000⟩
  | .cJumpJGT _ _ _ => ⟨"C.jump=JGT", 0x8007, 0x8001⟩
  | .cJumpJEQ _ _ _ => ⟨"C.jump=JEQ", 0x8007, 0x8002⟩
  | .cJumpJGE _ _ _ => ⟨"C.jump=JGE", 0x8007, 0x8003⟩
  | .cJumpJLT _ _ _ => ⟨"C.jump=JLT", 0x8007, 0x8004⟩
  | .cJumpJNE _ _ _ => ⟨"C.jump=JNE", 0x8007, 0x8005⟩
  | .cJumpJLE _ _ _ => ⟨"C.jump=JLE", 0x8007, 0x8006⟩
  | .cJumpJMP _ _ _ => ⟨"C.jump=JMP", 0x8007, 0x8007⟩
  | .comp0 _ _ => ⟨"comp_0", 0x9FC0, 0x8A80⟩
  | .comp1 _ _ => ⟨"comp_1", 0x9FC0, 0x8FC0⟩
  | .compNeg1 _ _ => ⟨"comp_-1", 0x9FC0, 0x8E80⟩
  | .compD _ _ => ⟨"comp_D", 0x9FC0, 0x8300⟩
  | .compA _ _ => ⟨"comp_A", 0x9FC0, 0x8C00⟩
  | .compNotD _ _ => ⟨"comp__D", 0x9FC0, 0x8340⟩
  | .compNotA _ _ => ⟨"comp__A", 0x9FC0, 0x8C40⟩
  | .compNegD _ _ => ⟨"comp_-D", 0x9FC0, 0x83C0⟩
  | .compNegA _ _ => ⟨"comp_-A", 0x9FC0, 0x8CC0⟩
  | .compDPlus1 _ _ => ⟨"comp_D+1", 0x9FC0, 0x87C0⟩
  | .compAPlus1 _ _ => ⟨"comp_A+1", 0x9FC0, 0x8DC0⟩
  | .compDMinus1 _ _ => ⟨"comp_D-1", 0x9FC0, 0x8380⟩
  | .compAMinus1 _ _ => ⟨"comp_A-1", 0x9FC0, 0x8C80⟩
  | .compDPlusA _ _ => ⟨"comp_D+A", 0x9FC0, 0x8080⟩
  | .compDMinusA _ _ => ⟨"comp_D-A", 0x9FC0, 0x84C0⟩
  | .compAMinusD _ _ => ⟨"comp_A-D", 0x9FC0, 0x81C0⟩
  | .compDAndA _ _ => ⟨"comp_D_A", 0x9FC0, 0x8000⟩
  | .compDOrA _ _ => ⟨"comp_D_A_2", 0x9FC0, 0x8540⟩
  | .compM _ _ => ⟨"comp_M", 0x9FC0, 0x9C00⟩
  | .compNotM _ _ => ⟨"comp__M", 0x9FC0, 0x9C40⟩
  | .compNegM _ _ => ⟨"comp_-M", 0x9FC0, 0x9CC0⟩
  | .compMPlus1 _ _ => ⟨"comp_M+1", 0x9FC0, 0x9DC0⟩
  | .compMMinus1 _ _ => ⟨"comp_M-1", 0x9FC0, 0x9C80⟩
  | .compDPlusM _ _ => ⟨"comp_D+M", 0x9FC0, 0x9080⟩
  | .compDMinusM _ _ => ⟨"comp_D-M", 0x9FC0, 0x94C0⟩
  | .compMMinusD _ _ => ⟨"comp_M-D", 0x9FC0, 0x91C0⟩
  | .compDAndM _ _ => ⟨"comp_D_M", 0x9FC0, 0x9000⟩
  | .compDOrM _ _ => ⟨"comp_D_M_2", 0x9FC0, 0x9540⟩

/-- Whether a word is one of the words a row covers (spec/30_encoding.md R63). -/
def Row.covers (r : Row) (w : Word) : Bool := w &&& r.mask == r.pattern

/-- The eight `dest` rows of the opcode table (spec/30_encoding.md R63). -/
def destRows : List Row :=
  [(Instr.cDestNone 0 0 0).row, (Instr.cDestM 0 0 0).row, (Instr.cDestD 0 0 0).row,
   (Instr.cDestMD 0 0 0).row, (Instr.cDestA 0 0 0).row, (Instr.cDestAM 0 0 0).row,
   (Instr.cDestAD 0 0 0).row, (Instr.cDestAMD 0 0 0).row]

/-- The eight `jump` rows of the opcode table (spec/30_encoding.md R63). -/
def jumpRows : List Row :=
  [(Instr.cJumpNone 0 0 0).row, (Instr.cJumpJGT 0 0 0).row, (Instr.cJumpJEQ 0 0 0).row,
   (Instr.cJumpJGE 0 0 0).row, (Instr.cJumpJLT 0 0 0).row, (Instr.cJumpJNE 0 0 0).row,
   (Instr.cJumpJLE 0 0 0).row, (Instr.cJumpJMP 0 0 0).row]

/-- The 28 `assembler_alias` rows of the opcode table (spec/30_encoding.md R63). -/
def compRows : List Row :=
  [(Instr.comp0 0 0).row, (Instr.comp1 0 0).row, (Instr.compNeg1 0 0).row,
   (Instr.compD 0 0).row, (Instr.compA 0 0).row, (Instr.compNotD 0 0).row,
   (Instr.compNotA 0 0).row, (Instr.compNegD 0 0).row, (Instr.compNegA 0 0).row,
   (Instr.compDPlus1 0 0).row, (Instr.compAPlus1 0 0).row, (Instr.compDMinus1 0 0).row,
   (Instr.compAMinus1 0 0).row, (Instr.compDPlusA 0 0).row, (Instr.compDMinusA 0 0).row,
   (Instr.compAMinusD 0 0).row, (Instr.compDAndA 0 0).row, (Instr.compDOrA 0 0).row,
   (Instr.compM 0 0).row, (Instr.compNotM 0 0).row, (Instr.compNegM 0 0).row,
   (Instr.compMPlus1 0 0).row, (Instr.compMMinus1 0 0).row, (Instr.compDPlusM 0 0).row,
   (Instr.compDMinusM 0 0).row, (Instr.compMMinusD 0 0).row, (Instr.compDAndM 0 0).row,
   (Instr.compDOrM 0 0).row]

end Sys2Proof
end

