-- ==== Sys2Proof/Machine/State.lean ====
section
/-! DEFINITION. The state of the block, complete by spec/10_state.md R10, and the reasons an operation can stop. -/

namespace Sys2Proof.Machine

/-- One cell of ROM or RAM at its address. The cell of 16 bits is the smallest unit of both spaces, and there is no
byte order (spec/20_memory.md R31, R35; notes/assumptions/7.md). -/
abbrev MemCell := Nat × Word

/-- A memory of 65536 cells: the cells that do not hold 0, addresses rising. An unlisted address reads as 0, the
reset content of both memories (spec/10_state.md R25). The canonical form is `Memory.wf` (Ops.lean). -/
abbrev Memory := List MemCell

/-- The state: A, D, PC, ROM, RAM and nothing else (spec/10_state.md R10, R18 to R20, R23). -/
structure State where
  /-- Register A (R11). -/
  a : Word
  /-- Register D (R12). -/
  d : Word
  /-- The program counter, a ROM cell index (R15). -/
  pc : Word
  /-- Instruction memory (R21). -/
  rom : Memory
  /-- Data memory (R22). -/
  ram : Memory
  deriving DecidableEq, Repr

/-- The state right after reset (spec/10_state.md R25). PC, A and D are the spec's decision D5
(notes/assumptions/5.md); the zeroed memories are the source's. -/
def State.reset : State :=
  { a := Config.default.resetA, d := Config.default.resetD, pc := Config.default.resetPc, rom := [], ram := [] }

/-- Why an operation is rejected. No step raises one (spec/60_exceptions.md R163). -/
inductive Fault where
  /-- Raised by the host's `load` when its text cannot be encoded (spec/60_exceptions.md R160). Safe: the spec gives
  exactly this error, and all state is as before. -/
  | rejected (e : HostError)
  deriving DecidableEq, Repr

/-- Why an input has no meaning in the model. No step refuses. -/
inductive Refusal where
  /-- An instruction that has no meaning yet. Raised by no arm of `exec`. Safe. -/
  | notModelled (mnemonic : String)
  /-- Raised by `load` with a ROM address outside 0..65535 (spec/44_assembler_and_load.md R151, D17). Safe: the spec
  says a model refuses it. -/
  | romAddressOutOfRange
  /-- Raised by a clock edge with both `rom_we` and `step_en` (spec/70_reset_and_hazards.md R190). Safe: the spec says
  a model refuses it. -/
  | overlappingHostOperations
  /-- Raised by a construction with an external RAM of another size than 65536 cells (spec/20_memory.md R44, D20).
  Safe: the spec says a model refuses it. -/
  | externalRamSize
  /-- Raised by a construction that supplies an external RAM although EXTERNAL_RAM is false, or none although it is
  true (notes/assumptions/6.md). Safe: no such machine is described. -/
  | externalRamMismatch
  /-- Raised by an external RAM access although EXTERNAL_RAM is false (spec/70_reset_and_hazards.md R194). Safe: the
  host has no such move. -/
  | noExternalRam
  deriving DecidableEq, Repr

end Sys2Proof.Machine
end

