-- ==== Sys2Proof/Machine/Ops.lean ====
section
/-! DEFINITION. The named operations over memories and registers. There is no exception to take and none to return
from (spec/60_exceptions.md R163, R166, R167), so no such operation stands here. -/

namespace Sys2Proof.Machine

/-! ## Memories as lists of cells -/

/-- The content of a cell: what is listed for it, and 0 where nothing is. -/
def Memory.read : Memory → Nat → Word
  | [], _ => 0
  | c :: m, k => if c.1 = k then c.2 else Memory.read m k

/-- A cell put at its place in a memory with rising addresses. -/
def Memory.insert (k : Nat) (v : Word) : Memory → Memory
  | [] => [(k, v)]
  | c :: m => if k < c.1 then (k, v) :: c :: m else c :: Memory.insert k v m

/-- A memory in which nothing is listed for the cell `k`. -/
def Memory.erase (m : Memory) (k : Nat) : Memory := m.filter (fun c => c.1 != k)

/-- The memory whose cell `k` holds `v` and whose other cells are as before. -/
def Memory.write (m : Memory) (k : Nat) (v : Word) : Memory :=
  if v = 0 then m.erase k else Memory.insert k v (m.erase k)

/-- The canonical form from the address `lo` on: rising addresses below 65536, no cell that holds 0. -/
def Memory.wfFrom : Nat → Memory → Bool
  | _, [] => true
  | lo, c :: m => decide (lo ≤ c.1) && decide (c.1 < 65536) && c.2 != 0 && Memory.wfFrom (c.1 + 1) m

/-- The canonical form of a memory, in which equal memories are equal lists. -/
def Memory.wf (m : Memory) : Bool := Memory.wfFrom 0 m

/-- The memory with the given cells at the addresses from `k` on. -/
def Memory.ofCells : Nat → List Word → Memory
  | _, [] => []
  | k, v :: vs => if v = 0 then Memory.ofCells (k + 1) vs else (k, v) :: Memory.ofCells (k + 1) vs

/-! ## ROM and RAM -/

/-- `RomRead` (spec/20_memory.md R32). -/
def romRead (s : State) (addr : Word) : Word := s.rom.read addr.toNat

/-- The write port of the ROM, driven by the host only (spec/44_assembler_and_load.md R151). -/
def romWrite (s : State) (addr v : Word) : State := { s with rom := s.rom.write addr.toNat v }

/-- What a RAM cell of RAM_CELL_BITS bits keeps of a word: `v mod 2^RAM_CELL_BITS` (spec/20_memory.md R34). -/
def ramCell (cfg : Config) (v : Word) : Word := BitVec.ofNat 16 (v.toNat % 2 ^ cfg.ramCellBits)

/-- `RamRead` (spec/20_memory.md R33): the content of the cell, zero-extended. -/
def ramRead (s : State) (addr : Word) : Word := s.ram.read addr.toNat

/-- `RamWrite` (spec/20_memory.md R34). -/
def ramWrite (cfg : Config) (s : State) (addr v : Word) : State :=
  { s with ram := s.ram.write addr.toNat (ramCell cfg v) }

/-! ## Registers -/

/-- `A <- v` (spec/10_state.md R11). -/
def setA (s : State) (v : Word) : State := { s with a := v }

/-- `D <- v` (spec/10_state.md R12). -/
def setD (s : State) (v : Word) : State := { s with d := v }

/-- `PC <- v` (spec/10_state.md R16). -/
def setPc (s : State) (v : Word) : State := { s with pc := v }

/-- `(PC + 1) mod 65536` (spec/10_state.md R16). -/
def nextPc (s : State) : Word := s.pc + 1

/-- The first action of a step (spec/42_step_and_a_instruction.md R93). -/
def fetch (s : State) : Word := romRead s s.pc

/-- What a cell list may hold for a machine with RAM_CELL_BITS-bit cells (spec/20_memory.md R34). -/
def Memory.fits (cfg : Config) (m : Memory) : Bool := m.all (fun c => decide (c.2.toNat < 2 ^ cfg.ramCellBits))

end Sys2Proof.Machine
end

