-- ==== Sys2Proof/Machine/Address.lean ====
section
/-! DEFINITION. The address-instruction (spec/42_step_and_a_instruction.md R97). -/

namespace Sys2Proof.Machine

/-- `step_A`: A <- zext_16(operand), PC <- PC + 1 mod 65536 (spec/42_step_and_a_instruction.md R97). -/
def addressStep (operand : BitVec 15) (s : State) : State :=
  setPc (setA s (operand.setWidth 16)) (nextPc s)

/-- `A`: the address-instruction (R97). -/
def execAInstr (operand : BitVec 15) (s : State) : Host.Outcome State Fault Refusal :=
  .next (addressStep operand s)

end Sys2Proof.Machine
end

