-- ==== Sys2Proof/Machine/Flags.lean ====
section
/-! DEFINITION. The jump decision. The hardware has no flags: the condition is computed from `value` in the same step
and is stored nowhere (spec/10_state.md R18, spec/43_c_instruction.md R110). -/

namespace Sys2Proof.Machine

/-- `signed16` (spec/00_scope.md section 5): v if v < 32768, else v - 65536. -/
def signed16 (v : Word) : Int := if v.toNat < 32768 then (v.toNat : Int) else (v.toNat : Int) - 65536

/-- `value` as the number the jump comparison reads (spec/43_c_instruction.md R110; notes/assumptions/2.md). -/
def jumpNumber (jumpSigned : Bool) (v : Word) : Int := if jumpSigned then signed16 v else (v.toNat : Int)

/-- `taken` (spec/43_c_instruction.md R119, R111 to R118); the last arm is jump code 7, `JMP`. -/
def taken (jumpSigned : Bool) (jump : BitVec 3) (v : Word) : Bool :=
  let n := jumpNumber jumpSigned v
  match jump.toNat with
  | 0 => false
  | 1 => decide (n > 0)
  | 2 => decide (n = 0)
  | 3 => decide (n ≥ 0)
  | 4 => decide (n < 0)
  | 5 => decide (n ≠ 0)
  | 6 => decide (n ≤ 0)
  | _ => true

end Sys2Proof.Machine
end

