-- ==== Sys2Proof/Machine/Alu.lean ====
section
/-! DEFINITION. The alu_16bit (spec/41_alu.md): zero, complement, AND or OR, complement. It has no adder, no flag
output and no state (R83, R86, R88). -/

namespace Sys2Proof.Machine

/-- The six control bits (spec/41_alu.md R80). -/
structure AluCtrl where
  zx : Bool
  nx : Bool
  zy : Bool
  ny : Bool
  f : Bool
  no : Bool
  deriving DecidableEq, Repr

/-- `NOT16`, the complement on 16 bits (spec/00_scope.md section 5). -/
def not16 (v : Word) : Word := v ^^^ 0xFFFF#16

/-- Stages 1 and 2 for one operand (spec/41_alu.md R81, R82): zeroed when `z`, then complemented when `n`. -/
def aluOperand (z n : Bool) (v : Word) : Word :=
  let v1 := if z then 0 else v
  if n then not16 v1 else v1

/-- Stages 3 and 4 (spec/41_alu.md R83, R84): AND when `f`, else OR, then complemented when `no`. -/
def aluCombine (f no : Bool) (x y : Word) : Word :=
  let o := if f then x &&& y else x ||| y
  if no then not16 o else o

/-- The whole function (spec/41_alu.md R85). -/
def alu (x y : Word) (c : AluCtrl) : Word :=
  aluCombine c.f c.no (aluOperand c.zx c.nx x) (aluOperand c.zy c.ny y)

/-- The software form, whose operands can be wider than 16 bits: RangeError before anything is computed
(spec/41_alu.md R87). -/
def aluSoftware (x y : Nat) (c : AluCtrl) : Except HostError Word :=
  if x < 65536 ∧ y < 65536 then .ok (alu (BitVec.ofNat 16 x) (BitVec.ofNat 16 y) c) else .error .rangeError

end Sys2Proof.Machine
end

