-- ==== Sys2Proof/Machine/Operands.lean ====
section
/-! DEFINITION. The operands of a compute-instruction and the ALU controls it selects
(spec/43_c_instruction.md R100 to R102). -/

namespace Sys2Proof.Machine

/-- Destination A, bit 2 of the mask (spec/30_encoding.md R59). -/
def destA (dest : BitVec 3) : Bool := dest.getLsbD 2

/-- Destination D, bit 1 of the mask (spec/30_encoding.md R59). -/
def destD (dest : BitVec 3) : Bool := dest.getLsbD 1

/-- Destination M, bit 0 of the mask (spec/30_encoding.md R59). -/
def destM (dest : BitVec 3) : Bool := dest.getLsbD 0

/-- The `x` operand is always D (spec/43_c_instruction.md R100). -/
def xOperand (s : State) : Word := s.d

/-- The `y` operand, chosen by bit 0 of the destination mask and not by the memory-select flag
(spec/43_c_instruction.md R101). -/
def yOperand (dest : BitVec 3) (s : State) : Word := if destM dest then ramRead s s.a else s.a

/-- The six ALU controls, taken from destination mask and computation code by CTRL_MAP
(spec/43_c_instruction.md R102; notes/assumptions/1.md). -/
def aluCtrl (map : CtrlMap) (comp : BitVec 6) (dest : BitVec 3) : AluCtrl :=
  { zx := dest.getLsbD map.zx, nx := dest.getLsbD map.nx, zy := dest.getLsbD map.zy,
    ny := comp.getLsbD map.ny, f := comp.getLsbD map.f, no := comp.getLsbD map.no }

/-- `value`, computed before any write of the step (spec/43_c_instruction.md R102, R108). -/
def computeValue (cfg : Config) (comp : BitVec 6) (dest : BitVec 3) (s : State) : Word :=
  alu (xOperand s) (yOperand dest s) (aluCtrl cfg.ctrlMap comp dest)

end Sys2Proof.Machine
end

