-- ==== Sys2Proof/Machine/Compute.lean ====
section
/-! DEFINITION. The compute-instruction (spec/43_c_instruction.md R123): one shared operation, and the meaning of the
row `C`. -/

namespace Sys2Proof.Machine

/-- The destination writes, in the order A, D, M; the M write uses A as it then is
(spec/43_c_instruction.md R105 to R108; notes/assumptions/4.md). -/
def writeDests (cfg : Config) (dest : BitVec 3) (value : Word) (s : State) : State :=
  let s1 := if destA dest then setA s value else s
  let s2 := if destD dest then setD s1 value else s1
  if destM dest then ramWrite cfg s2 s2.a value else s2

/-- The last action of the step: PC <- A as it then is when the jump is taken, else PC + 1 mod 65536
(spec/43_c_instruction.md R120; notes/assumptions/4.md). -/
def updatePc (cfg : Config) (jump : BitVec 3) (value : Word) (s : State) : State :=
  setPc s (if taken cfg.jumpSigned jump value then s.a else nextPc s)

/-- `step_C` (spec/43_c_instruction.md R123). The memory-select flag is read by nothing (R103). -/
def computeStep (cfg : Config) (_a : BitVec 1) (comp : BitVec 6) (dest jump : BitVec 3) (s : State) : State :=
  let value := computeValue cfg comp dest s
  updatePc cfg jump value (writeDests cfg dest value s)

/-- `C`: the compute-instruction (R123). -/
def execCInstr (a : BitVec 1) (comp : BitVec 6) (dest jump : BitVec 3) (s : State) : Host.Outcome State Fault Refusal :=
  .next (computeStep Config.default a comp dest jump s)

end Sys2Proof.Machine
end

