-- ==== Sys2Proof/Machine/CompRows.lean ====
section
/-! DEFINITION. The meanings of the `comp_...` rows: the compute-instruction with its 7-bit code fixed (spec/44_assembler_and_load.md R140, R141; spec/43_c_instruction.md R123). The code decides a result together with the destination mask (R125); the mnemonic does not describe it. -/

namespace Sys2Proof.Machine

/-- `comp_0` (text `0`): a = 0, comp = 101010 (R140); the step reads comp[2:0] = 010 of it (R103). -/
def execComp0 (dest jump : BitVec 3) (s : State) : Host.Outcome State Fault Refusal :=
  .next (computeStep Config.default 0#1 0b101010#6 dest jump s)

/-- `comp_1` (text `1`): a = 0, comp = 111111 (R140); the step reads comp[2:0] = 111 of it (R103). -/
def execComp1 (dest jump : BitVec 3) (s : State) : Host.Outcome State Fault Refusal :=
  .next (computeStep Config.default 0#1 0b111111#6 dest jump s)

/-- `comp_-1` (text `-1`): a = 0, comp = 111010 (R140); the step reads comp[2:0] = 010 of it (R103). -/
def execCompNeg1 (dest jump : BitVec 3) (s : State) : Host.Outcome State Fault Refusal :=
  .next (computeStep Config.default 0#1 0b111010#6 dest jump s)

/-- `comp_D` (text `D`): a = 0, comp = 001100 (R140); the step reads comp[2:0] = 100 of it (R103). -/
def execCompD (dest jump : BitVec 3) (s : State) : Host.Outcome State Fault Refusal :=
  .next (computeStep Config.default 0#1 0b001100#6 dest jump s)

/-- `comp_A` (text `A`): a = 0, comp = 110000 (R140); the step reads comp[2:0] = 000 of it (R103). -/
def execCompA (dest jump : BitVec 3) (s : State) : Host.Outcome State Fault Refusal :=
  .next (computeStep Config.default 0#1 0b110000#6 dest jump s)

/-- `comp__D` (text `!D`): a = 0, comp = 001101 (R140); the step reads comp[2:0] = 101 of it (R103). -/
def execCompNotD (dest jump : BitVec 3) (s : State) : Host.Outcome State Fault Refusal :=
  .next (computeStep Config.default 0#1 0b001101#6 dest jump s)

/-- `comp__A` (text `!A`): a = 0, comp = 110001 (R140); the step reads comp[2:0] = 001 of it (R103). -/
def execCompNotA (dest jump : BitVec 3) (s : State) : Host.Outcome State Fault Refusal :=
  .next (computeStep Config.default 0#1 0b110001#6 dest jump s)

/-- `comp_-D` (text `-D`): a = 0, comp = 001111 (R140); the step reads comp[2:0] = 111 of it (R103). -/
def execCompNegD (dest jump : BitVec 3) (s : State) : Host.Outcome State Fault Refusal :=
  .next (computeStep Config.default 0#1 0b001111#6 dest jump s)

/-- `comp_-A` (text `-A`): a = 0, comp = 110011 (R140); the step reads comp[2:0] = 011 of it (R103). -/
def execCompNegA (dest jump : BitVec 3) (s : State) : Host.Outcome State Fault Refusal :=
  .next (computeStep Config.default 0#1 0b110011#6 dest jump s)

/-- `comp_D+1` (text `D+1`): a = 0, comp = 011111 (R140); the step reads comp[2:0] = 111 of it (R103). -/
def execCompDPlus1 (dest jump : BitVec 3) (s : State) : Host.Outcome State Fault Refusal :=
  .next (computeStep Config.default 0#1 0b011111#6 dest jump s)

/-- `comp_A+1` (text `A+1`): a = 0, comp = 110111 (R140); the step reads comp[2:0] = 111 of it (R103). -/
def execCompAPlus1 (dest jump : BitVec 3) (s : State) : Host.Outcome State Fault Refusal :=
  .next (computeStep Config.default 0#1 0b110111#6 dest jump s)

/-- `comp_D-1` (text `D-1`): a = 0, comp = 001110 (R140); the step reads comp[2:0] = 110 of it (R103). -/
def execCompDMinus1 (dest jump : BitVec 3) (s : State) : Host.Outcome State Fault Refusal :=
  .next (computeStep Config.default 0#1 0b001110#6 dest jump s)

/-- `comp_A-1` (text `A-1`): a = 0, comp = 110010 (R140); the step reads comp[2:0] = 010 of it (R103). -/
def execCompAMinus1 (dest jump : BitVec 3) (s : State) : Host.Outcome State Fault Refusal :=
  .next (computeStep Config.default 0#1 0b110010#6 dest jump s)

/-- `comp_D+A` (text `D+A`): a = 0, comp = 000010 (R140); the step reads comp[2:0] = 010 of it (R103). -/
def execCompDPlusA (dest jump : BitVec 3) (s : State) : Host.Outcome State Fault Refusal :=
  .next (computeStep Config.default 0#1 0b000010#6 dest jump s)

/-- `comp_D-A` (text `D-A`): a = 0, comp = 010011 (R140); the step reads comp[2:0] = 011 of it (R103). -/
def execCompDMinusA (dest jump : BitVec 3) (s : State) : Host.Outcome State Fault Refusal :=
  .next (computeStep Config.default 0#1 0b010011#6 dest jump s)

/-- `comp_A-D` (text `A-D`): a = 0, comp = 000111 (R140); the step reads comp[2:0] = 111 of it (R103). -/
def execCompAMinusD (dest jump : BitVec 3) (s : State) : Host.Outcome State Fault Refusal :=
  .next (computeStep Config.default 0#1 0b000111#6 dest jump s)

/-- `comp_D_A` (text `D&A`): a = 0, comp = 000000 (R140); the step reads comp[2:0] = 000 of it (R103). -/
def execCompDAndA (dest jump : BitVec 3) (s : State) : Host.Outcome State Fault Refusal :=
  .next (computeStep Config.default 0#1 0b000000#6 dest jump s)

/-- `comp_D_A_2` (text `D|A`): a = 0, comp = 010101 (R140); the step reads comp[2:0] = 101 of it (R103). -/
def execCompDOrA (dest jump : BitVec 3) (s : State) : Host.Outcome State Fault Refusal :=
  .next (computeStep Config.default 0#1 0b010101#6 dest jump s)

/-- `comp_M` (text `M`): a = 1, comp = 110000 (R140); the step reads comp[2:0] = 000 of it (R103). -/
def execCompM (dest jump : BitVec 3) (s : State) : Host.Outcome State Fault Refusal :=
  .next (computeStep Config.default 1#1 0b110000#6 dest jump s)

/-- `comp__M` (text `!M`): a = 1, comp = 110001 (R140); the step reads comp[2:0] = 001 of it (R103). -/
def execCompNotM (dest jump : BitVec 3) (s : State) : Host.Outcome State Fault Refusal :=
  .next (computeStep Config.default 1#1 0b110001#6 dest jump s)

/-- `comp_-M` (text `-M`): a = 1, comp = 110011 (R140); the step reads comp[2:0] = 011 of it (R103). -/
def execCompNegM (dest jump : BitVec 3) (s : State) : Host.Outcome State Fault Refusal :=
  .next (computeStep Config.default 1#1 0b110011#6 dest jump s)

/-- `comp_M+1` (text `M+1`): a = 1, comp = 110111 (R140); the step reads comp[2:0] = 111 of it (R103). -/
def execCompMPlus1 (dest jump : BitVec 3) (s : State) : Host.Outcome State Fault Refusal :=
  .next (computeStep Config.default 1#1 0b110111#6 dest jump s)

/-- `comp_M-1` (text `M-1`): a = 1, comp = 110010 (R140); the step reads comp[2:0] = 010 of it (R103). -/
def execCompMMinus1 (dest jump : BitVec 3) (s : State) : Host.Outcome State Fault Refusal :=
  .next (computeStep Config.default 1#1 0b110010#6 dest jump s)

/-- `comp_D+M` (text `D+M`): a = 1, comp = 000010 (R140); the step reads comp[2:0] = 010 of it (R103). -/
def execCompDPlusM (dest jump : BitVec 3) (s : State) : Host.Outcome State Fault Refusal :=
  .next (computeStep Config.default 1#1 0b000010#6 dest jump s)

/-- `comp_D-M` (text `D-M`): a = 1, comp = 010011 (R140); the step reads comp[2:0] = 011 of it (R103). -/
def execCompDMinusM (dest jump : BitVec 3) (s : State) : Host.Outcome State Fault Refusal :=
  .next (computeStep Config.default 1#1 0b010011#6 dest jump s)

/-- `comp_M-D` (text `M-D`): a = 1, comp = 000111 (R140); the step reads comp[2:0] = 111 of it (R103). -/
def execCompMMinusD (dest jump : BitVec 3) (s : State) : Host.Outcome State Fault Refusal :=
  .next (computeStep Config.default 1#1 0b000111#6 dest jump s)

/-- `comp_D_M` (text `D&M`): a = 1, comp = 000000 (R140); the step reads comp[2:0] = 000 of it (R103). -/
def execCompDAndM (dest jump : BitVec 3) (s : State) : Host.Outcome State Fault Refusal :=
  .next (computeStep Config.default 1#1 0b000000#6 dest jump s)

/-- `comp_D_M_2` (text `D|M`): a = 1, comp = 010101 (R140); the step reads comp[2:0] = 101 of it (R103). -/
def execCompDOrM (dest jump : BitVec 3) (s : State) : Host.Outcome State Fault Refusal :=
  .next (computeStep Config.default 1#1 0b010101#6 dest jump s)

end Sys2Proof.Machine
end

