-- ==== Sys2Proof/Machine/DestRows.lean ====
section
/-! DEFINITION. The meanings of the `C.dest=...` rows: the compute-instruction with its destination mask fixed (spec/43_c_instruction.md R108, R123). -/

namespace Sys2Proof.Machine

/-- `C.dest=none`: the value goes to nothing (R108). -/
def execCDestNone (a : BitVec 1) (comp : BitVec 6) (jump : BitVec 3) (s : State) : Host.Outcome State Fault Refusal :=
  .next (computeStep Config.default a comp 0b000#3 jump s)

/-- `C.dest=M`: the value goes to RAM[A] (R108). -/
def execCDestM (a : BitVec 1) (comp : BitVec 6) (jump : BitVec 3) (s : State) : Host.Outcome State Fault Refusal :=
  .next (computeStep Config.default a comp 0b001#3 jump s)

/-- `C.dest=D`: the value goes to D (R108). -/
def execCDestD (a : BitVec 1) (comp : BitVec 6) (jump : BitVec 3) (s : State) : Host.Outcome State Fault Refusal :=
  .next (computeStep Config.default a comp 0b010#3 jump s)

/-- `C.dest=MD`: the value goes to D and RAM[A] (R108). -/
def execCDestMD (a : BitVec 1) (comp : BitVec 6) (jump : BitVec 3) (s : State) : Host.Outcome State Fault Refusal :=
  .next (computeStep Config.default a comp 0b011#3 jump s)

/-- `C.dest=A`: the value goes to A (R108). -/
def execCDestA (a : BitVec 1) (comp : BitVec 6) (jump : BitVec 3) (s : State) : Host.Outcome State Fault Refusal :=
  .next (computeStep Config.default a comp 0b100#3 jump s)

/-- `C.dest=AM`: the value goes to A and RAM[new A] (R108). -/
def execCDestAM (a : BitVec 1) (comp : BitVec 6) (jump : BitVec 3) (s : State) : Host.Outcome State Fault Refusal :=
  .next (computeStep Config.default a comp 0b101#3 jump s)

/-- `C.dest=AD`: the value goes to A and D (R108). -/
def execCDestAD (a : BitVec 1) (comp : BitVec 6) (jump : BitVec 3) (s : State) : Host.Outcome State Fault Refusal :=
  .next (computeStep Config.default a comp 0b110#3 jump s)

/-- `C.dest=AMD`: the value goes to A, D and RAM[new A] (R108). -/
def execCDestAMD (a : BitVec 1) (comp : BitVec 6) (jump : BitVec 3) (s : State) : Host.Outcome State Fault Refusal :=
  .next (computeStep Config.default a comp 0b111#3 jump s)

end Sys2Proof.Machine
end

