-- ==== Sys2Proof/Machine/JumpRows.lean ====
section
/-! DEFINITION. The meanings of the `C.jump=...` rows: the compute-instruction with its jump code fixed (spec/43_c_instruction.md R111 to R118, R123). -/

namespace Sys2Proof.Machine

/-- `C.jump=none`: the jump is taken never (R111). -/
def execCJumpNone (a : BitVec 1) (comp : BitVec 6) (dest : BitVec 3) (s : State) : Host.Outcome State Fault Refusal :=
  .next (computeStep Config.default a comp dest 0b000#3 s)

/-- `C.jump=JGT`: the jump is taken when value > 0 (R112). -/
def execCJumpJGT (a : BitVec 1) (comp : BitVec 6) (dest : BitVec 3) (s : State) : Host.Outcome State Fault Refusal :=
  .next (computeStep Config.default a comp dest 0b001#3 s)

/-- `C.jump=JEQ`: the jump is taken when value = 0 (R113). -/
def execCJumpJEQ (a : BitVec 1) (comp : BitVec 6) (dest : BitVec 3) (s : State) : Host.Outcome State Fault Refusal :=
  .next (computeStep Config.default a comp dest 0b010#3 s)

/-- `C.jump=JGE`: the jump is taken when value >= 0 (R114). -/
def execCJumpJGE (a : BitVec 1) (comp : BitVec 6) (dest : BitVec 3) (s : State) : Host.Outcome State Fault Refusal :=
  .next (computeStep Config.default a comp dest 0b011#3 s)

/-- `C.jump=JLT`: the jump is taken when value < 0 (R115). -/
def execCJumpJLT (a : BitVec 1) (comp : BitVec 6) (dest : BitVec 3) (s : State) : Host.Outcome State Fault Refusal :=
  .next (computeStep Config.default a comp dest 0b100#3 s)

/-- `C.jump=JNE`: the jump is taken when value != 0 (R116). -/
def execCJumpJNE (a : BitVec 1) (comp : BitVec 6) (dest : BitVec 3) (s : State) : Host.Outcome State Fault Refusal :=
  .next (computeStep Config.default a comp dest 0b101#3 s)

/-- `C.jump=JLE`: the jump is taken when value <= 0 (R117). -/
def execCJumpJLE (a : BitVec 1) (comp : BitVec 6) (dest : BitVec 3) (s : State) : Host.Outcome State Fault Refusal :=
  .next (computeStep Config.default a comp dest 0b110#3 s)

/-- `C.jump=JMP`: the jump is taken always (R118). -/
def execCJumpJMP (a : BitVec 1) (comp : BitVec 6) (dest : BitVec 3) (s : State) : Host.Outcome State Fault Refusal :=
  .next (computeStep Config.default a comp dest 0b111#3 s)

end Sys2Proof.Machine
end

