-- ==== Sys2Proof/Machine/Dispatch.lean ====
section
/-! DEFINITION. One arm per constructor of Instr, each a direct call of its meaning (spec/42_step_and_a_instruction.md R95). -/

namespace Sys2Proof.Machine

def exec (i : Instr) (s : State) : Host.Outcome State Fault Refusal :=
  match i with
  | .aInstr operand => Sys2Proof.Machine.execAInstr operand s
  | .cInstr a comp dest jump => Sys2Proof.Machine.execCInstr a comp dest jump s
  | .cDestNone a comp jump => Sys2Proof.Machine.execCDestNone a comp jump s
  | .cDestM a comp jump => Sys2Proof.Machine.execCDestM a comp jump s
  | .cDestD a comp jump => Sys2Proof.Machine.execCDestD a comp jump s
  | .cDestMD a comp jump => Sys2Proof.Machine.execCDestMD a comp jump s
  | .cDestA a comp jump => Sys2Proof.Machine.execCDestA a comp jump s
  | .cDestAM a comp jump => Sys2Proof.Machine.execCDestAM a comp jump s
  | .cDestAD a comp jump => Sys2Proof.Machine.execCDestAD a comp jump s
  | .cDestAMD a comp jump => Sys2Proof.Machine.execCDestAMD a comp jump s
  | .cJumpNone a comp dest => Sys2Proof.Machine.execCJumpNone a comp dest s
  | .cJumpJGT a comp dest => Sys2Proof.Machine.execCJumpJGT a comp dest s
  | .cJumpJEQ a comp dest => Sys2Proof.Machine.execCJumpJEQ a comp dest s
  | .cJumpJGE a comp dest => Sys2Proof.Machine.execCJumpJGE a comp dest s
  | .cJumpJLT a comp dest => Sys2Proof.Machine.execCJumpJLT a comp dest s
  | .cJumpJNE a comp dest => Sys2Proof.Machine.execCJumpJNE a comp dest s
  | .cJumpJLE a comp dest => Sys2Proof.Machine.execCJumpJLE a comp dest s
  | .cJumpJMP a comp dest => Sys2Proof.Machine.execCJumpJMP a comp dest s
  | .comp0 dest jump => Sys2Proof.Machine.execComp0 dest jump s
  | .comp1 dest jump => Sys2Proof.Machine.execComp1 dest jump s
  | .compNeg1 dest jump => Sys2Proof.Machine.execCompNeg1 dest jump s
  | .compD dest jump => Sys2Proof.Machine.execCompD dest jump s
  | .compA dest jump => Sys2Proof.Machine.execCompA dest jump s
  | .compNotD dest jump => Sys2Proof.Machine.execCompNotD dest jump s
  | .compNotA dest jump => Sys2Proof.Machine.execCompNotA dest jump s
  | .compNegD dest jump => Sys2Proof.Machine.execCompNegD dest jump s
  | .compNegA dest jump => Sys2Proof.Machine.execCompNegA dest jump s
  | .compDPlus1 dest jump => Sys2Proof.Machine.execCompDPlus1 dest jump s
  | .compAPlus1 dest jump => Sys2Proof.Machine.execCompAPlus1 dest jump s
  | .compDMinus1 dest jump => Sys2Proof.Machine.execCompDMinus1 dest jump s
  | .compAMinus1 dest jump => Sys2Proof.Machine.execCompAMinus1 dest jump s
  | .compDPlusA dest jump => Sys2Proof.Machine.execCompDPlusA dest jump s
  | .compDMinusA dest jump => Sys2Proof.Machine.execCompDMinusA dest jump s
  | .compAMinusD dest jump => Sys2Proof.Machine.execCompAMinusD dest jump s
  | .compDAndA dest jump => Sys2Proof.Machine.execCompDAndA dest jump s
  | .compDOrA dest jump => Sys2Proof.Machine.execCompDOrA dest jump s
  | .compM dest jump => Sys2Proof.Machine.execCompM dest jump s
  | .compNotM dest jump => Sys2Proof.Machine.execCompNotM dest jump s
  | .compNegM dest jump => Sys2Proof.Machine.execCompNegM dest jump s
  | .compMPlus1 dest jump => Sys2Proof.Machine.execCompMPlus1 dest jump s
  | .compMMinus1 dest jump => Sys2Proof.Machine.execCompMMinus1 dest jump s
  | .compDPlusM dest jump => Sys2Proof.Machine.execCompDPlusM dest jump s
  | .compDMinusM dest jump => Sys2Proof.Machine.execCompDMinusM dest jump s
  | .compMMinusD dest jump => Sys2Proof.Machine.execCompMMinusD dest jump s
  | .compDAndM dest jump => Sys2Proof.Machine.execCompDAndM dest jump s
  | .compDOrM dest jump => Sys2Proof.Machine.execCompDOrM dest jump s

end Sys2Proof.Machine
end

