-- ==== Sys2Proof/Machine/Step.lean ====
section
/-! DEFINITION. One step of the machine (spec/42_step_and_a_instruction.md R96). -/

namespace Sys2Proof.Machine

/-- Fetch ROM[PC], decode, dispatch (R93 to R95). -/
def step (s : State) : Host.Outcome State Fault Refusal := exec (decode (fetch s)) s

/-- The state in which the word `w` stands where `step` fetches its next instruction: a host `load` of it at PC
(spec/44_assembler_and_load.md R151; notes/assumptions/9.md). -/
def State.withFetchWord (s : State) (_nbits w : Nat) : State := romWrite s s.pc (BitVec.ofNat 16 w)

end Sys2Proof.Machine
end

