-- ==== Sys2Proof/Machine/Assembler.lean ====
section
/-! DEFINITION. The host's text encoder and its symbol table (spec/44_assembler_and_load.md): software that makes the
words the ROM holds. None of it is hardware (R130). A text is a list of characters. -/

namespace Sys2Proof.Machine

/-- The mnemonic text of one instruction. -/
abbrev Text := List Char

/-! ## Symbol table -/

/-- The symbol table of one assembly session (spec/44_assembler_and_load.md R131). -/
structure SymbolTable where
  map : List (Text × Nat)
  nextAllocation : Nat
  deriving DecidableEq, Repr

/-- The predefined symbols (spec/44_assembler_and_load.md R132). -/
def predefinedSymbols : List (Text × Nat) :=
  [(['S', 'P'], 0), (['L', 'C', 'L'], 1), (['A', 'R', 'G'], 2), (['T', 'H', 'I', 'S'], 3), (['T', 'H', 'A', 'T'], 4),
   (['R', '0'], 0), (['R', '1'], 1), (['R', '2'], 2), (['R', '3'], 3), (['R', '4'], 4), (['R', '5'], 5),
   (['R', '6'], 6), (['R', '7'], 7), (['R', '8'], 8), (['R', '9'], 9), (['R', '1', '0'], 10),
   (['R', '1', '1'], 11), (['R', '1', '2'], 12), (['R', '1', '3'], 13), (['R', '1', '4'], 14),
   (['R', '1', '5'], 15), (['S', 'C', 'R', 'E', 'E', 'N'], 16384), (['K', 'B', 'D'], 24576)]

/-- A fresh table (spec/44_assembler_and_load.md R132, R133). -/
def SymbolTable.fresh : SymbolTable := { map := predefinedSymbols, nextAllocation := 16 }

/-- `allocate_or_get`: look up by key presence, else assign the next address
(spec/44_assembler_and_load.md R133, R134). -/
def allocateOrGet (t : SymbolTable) (name : Text) : Nat × SymbolTable :=
  match t.map.lookup name with
  | some addr => (addr, t)
  | none =>
      (t.nextAllocation, { map := t.map ++ [(name, t.nextAllocation)], nextAllocation := t.nextAllocation + 1 })

/-! ## Address form -/

/-- An ASCII digit (spec/44_assembler_and_load.md R137, D13). -/
def isDigitChar (c : Char) : Bool := decide (48 ≤ c.toNat) && decide (c.toNat ≤ 57)

/-- An ASCII letter or the underscore (spec/44_assembler_and_load.md R137, D13). -/
def isNameChar (c : Char) : Bool :=
  (decide (65 ≤ c.toNat) && decide (c.toNat ≤ 90)) || (decide (97 ≤ c.toNat) && decide (c.toNat ≤ 122)) || c == '_'

/-- A text of digits read as a decimal number (spec/44_assembler_and_load.md R138). -/
def decimal (t : Text) : Nat := t.foldl (fun n c => 10 * n + (c.toNat - 48)) 0

/-- The word of a resolved operand: RangeError from 32768 on (spec/44_assembler_and_load.md R138). -/
def operandWord (v : Nat) : Except HostError Word :=
  if v < 32768 then .ok (BitVec.ofNat 16 v) else .error .rangeError

/-- The remainder after `@`: a literal, a symbol, or neither (spec/44_assembler_and_load.md R137 to R139). A failing
encode records no symbol (R136). -/
def encodeAddress (rest : Text) (t : SymbolTable) : Except HostError (Word × SymbolTable) :=
  if !rest.isEmpty && rest.all isDigitChar then
    match operandWord (decimal rest) with
    | .ok w => .ok (w, t)
    | .error e => .error e
  else if !rest.isEmpty && rest.all isNameChar then
    match operandWord (allocateOrGet t rest).1 with
    | .ok w => .ok (w, (allocateOrGet t rest).2)
    | .error e => .error e
  else .error .syntaxError

/-! ## Compute form -/

/-- The 28 computation mnemonics with their 7-bit codes `{a, comp}` (spec/44_assembler_and_load.md R140;
notes/assumptions/13.md). -/
def compTable : List (Text × BitVec 7) :=
  [(['0'], 0b0101010), (['1'], 0b0111111), (['-', '1'], 0b0111010), (['D'], 0b0001100), (['A'], 0b0110000),
   (['!', 'D'], 0b0001101), (['!', 'A'], 0b0110001), (['-', 'D'], 0b0001111), (['-', 'A'], 0b0110011),
   (['D', '+', '1'], 0b0011111), (['A', '+', '1'], 0b0110111), (['D', '-', '1'], 0b0001110),
   (['A', '-', '1'], 0b0110010), (['D', '+', 'A'], 0b0000010), (['D', '-', 'A'], 0b0010011),
   (['A', '-', 'D'], 0b0000111), (['D', '&', 'A'], 0b0000000), (['D', '|', 'A'], 0b0010101),
   (['M'], 0b1110000), (['!', 'M'], 0b1110001), (['-', 'M'], 0b1110011), (['M', '+', '1'], 0b1110111),
   (['M', '-', '1'], 0b1110010), (['D', '+', 'M'], 0b1000010), (['D', '-', 'M'], 0b1010011),
   (['M', '-', 'D'], 0b1000111), (['D', '&', 'M'], 0b1000000), (['D', '|', 'M'], 0b1010101)]

/-- The seven jump mnemonics with their codes (spec/44_assembler_and_load.md R143). -/
def jumpTable : List (Text × BitVec 3) :=
  [(['J', 'G', 'T'], 1), (['J', 'E', 'Q'], 2), (['J', 'G', 'E'], 3), (['J', 'L', 'T'], 4), (['J', 'N', 'E'], 5),
   (['J', 'L', 'E'], 6), (['J', 'M', 'P'], 7)]

/-- The destination mask of a text of the letters A, D, M in any repetition and order
(spec/44_assembler_and_load.md R142). -/
def destMask (t : Text) : Option (BitVec 3) :=
  if t.all (fun c => c == 'A' || c == 'D' || c == 'M') then
    some ((if t.contains 'A' then 0b100#3 else 0) ||| (if t.contains 'D' then 0b010#3 else 0)
      ||| (if t.contains 'M' then 0b001#3 else 0))
  else none

/-- The mask of an optional destination: absence gives 0 (spec/44_assembler_and_load.md R142). -/
def destCode : Option Text → Option (BitVec 3)
  | none => some 0
  | some t => destMask t

/-- The code of an optional jump: absence gives 0 (spec/44_assembler_and_load.md R143). -/
def jumpCode : Option Text → Option (BitVec 3)
  | none => some 0
  | some t => jumpTable.lookup t

/-- The parts of a compute text, split at the first `=` and the first `;`
(spec/44_assembler_and_load.md R144). -/
structure ComputeText where
  dest : Option Text
  comp : Text
  jump : Option Text
  deriving DecidableEq, Repr

/-- `[dest=]comp[;jump]` split into its parts (spec/44_assembler_and_load.md R144). -/
def splitCompute (text : Text) : ComputeText :=
  let e := text.findIdx? (· == '=')
  let s := text.findIdx? (· == ';')
  let first := match e with
    | some e => e + 1
    | none => 0
  let last := s.getD text.length
  { dest := e.map (fun e => text.take e), comp := (text.drop first).take (last - first),
    jump := s.map (fun s => text.drop (s + 1)) }

/-- The word of a compute text; every fault of one is a SyntaxError (spec/44_assembler_and_load.md R140, R142 to
R145, R147). -/
def encodeCompute (text : Text) : Except HostError Word :=
  let parts := splitCompute text
  match compTable.lookup parts.comp, destCode parts.dest, jumpCode parts.jump with
  | some code, some mask, some jump => .ok (pack (.compute (code.extractLsb' 6 1) (code.extractLsb' 0 6) mask jump))
  | _, _, _ => .error .syntaxError

/-! ## Encode -/

/-- `encode(text, symbols)` (spec/44_assembler_and_load.md R136, R137, R144). -/
def encodeText (text : Text) (t : SymbolTable) : Except HostError (Word × SymbolTable) :=
  match text with
  | '@' :: rest => encodeAddress rest t
  | _ =>
      match encodeCompute text with
      | .ok w => .ok (w, t)
      | .error e => .error e

end Sys2Proof.Machine
end

