-- ==== Sys2Proof/Machine/Transition.lean ====
section
/-! DEFINITION. The transition of a machine of any configuration, on the instruction record
(spec/42_step_and_a_instruction.md R96). `Machine.step` is this transition with the default configuration. -/

namespace Sys2Proof.Machine

/-- Dispatch over the variant of the record (spec/42_step_and_a_instruction.md R95). -/
def stepRecord (cfg : Config) (r : Record) (s : State) : State :=
  match r with
  | .address operand => addressStep operand s
  | .compute a comp dest jump => computeStep cfg a comp dest jump s

/-- `step` (spec/42_step_and_a_instruction.md R96) for the configuration `cfg`: fetch, decode, execute. -/
def stepWith (cfg : Config) (s : State) : State := stepRecord cfg (decodeRecord (fetch s)) s

end Sys2Proof.Machine
end

