-- ==== Sys2Proof/Machine/HostMoves.lean ====
section
/-! DEFINITION. What the host can do to the block, always between steps (spec/70_reset_and_hazards.md R194), and the
block's ports (spec/42_step_and_a_instruction.md R90). -/

namespace Sys2Proof.Machine

/-! ## Reset -/

/-- The state of spec/10_state.md R25 with the RAM content `ram`. -/
def resetState (cfg : Config) (ram : Memory) : State :=
  { a := cfg.resetA, d := cfg.resetD, pc := cfg.resetPc, rom := [], ram := ram }

/-- Construction with an optional external RAM of exactly 65536 cells (spec/10_state.md R25, R26;
spec/20_memory.md R44; notes/assumptions/6.md). -/
def construct (cfg : Config) (external : Option (List Word)) : Host.Outcome State Fault Refusal :=
  match cfg.externalRam, external with
  | false, none => .next (resetState cfg [])
  | true, some cells =>
      if cells.length = 65536 then .next (resetState cfg (Memory.ofCells 0 (cells.map (ramCell cfg))))
      else .refused .externalRamSize
  | _, _ => .refused .externalRamMismatch

/-- The reset input: the state of R25; an external RAM is not cleared (spec/70_reset_and_hazards.md R180, R182). -/
def resetInput (cfg : Config) (s : State) : State := resetState cfg (if cfg.externalRam then s.ram else [])

/-! ## The moves -/

/-- The machine and the host's symbol table (spec/44_assembler_and_load.md R131). -/
structure Session where
  machine : State
  symbols : SymbolTable
  deriving DecidableEq, Repr

/-- The moves of spec/70_reset_and_hazards.md R194. The spec gives no order for an external RAM read, which changes
nothing; `inspect` and it answer through `romRead`, `ramRead` and the state's fields. -/
inductive HostMove where
  | reset (external : Option (List Word))
  | load (text : Text) (address : Nat)
  | step
  | inspect
  | externalRead (addr : Word)
  | externalWrite (addr v : Word)
  deriving DecidableEq, Repr

/-- `load(text, address)` (spec/44_assembler_and_load.md R150): an encode error changes nothing, an address outside
ROM is refused (R151; notes/assumptions/12.md). -/
def load (text : Text) (address : Nat) (h : Session) : Host.Outcome Session Fault Refusal :=
  if address < 65536 then
    match encodeText text h.symbols with
    | .ok (w, t) => .next { machine := romWrite h.machine (BitVec.ofNat 16 address) w, symbols := t }
    | .error e => .fault (.rejected e)
  else .refused .romAddressOutOfRange

/-- One move of the host (spec/70_reset_and_hazards.md R194). -/
def hostMove (cfg : Config) (m : HostMove) (h : Session) : Host.Outcome Session Fault Refusal :=
  match m with
  | .reset external =>
      match construct cfg external with
      | .next s => .next { h with machine := s }
      | .fault r => .fault r
      | .refused r => .refused r
  | .load text address => load text address h
  | .step => .next { h with machine := stepWith cfg h.machine }
  | .inspect => .next h
  | .externalRead _ => if cfg.externalRam then .next h else .refused .noExternalRam
  | .externalWrite addr v =>
      if cfg.externalRam then .next { h with machine := ramWrite cfg h.machine addr v } else .refused .noExternalRam

/-! ## The ports -/

/-- The inputs at a clock edge (spec/42_step_and_a_instruction.md R90; spec/44_assembler_and_load.md R151). -/
structure ClockInputs where
  rst : Bool
  stepEn : Bool
  romWe : Bool
  romWaddr : Word
  romWdata : Word
  deriving DecidableEq, Repr

/-- A clock edge: `rst` wins over everything (spec/70_reset_and_hazards.md R180), `rom_we` with `step_en` is refused
(R190), `step_en` = 0 holds A, D, PC and RAM (spec/42_step_and_a_instruction.md R98). -/
def clockEdge (cfg : Config) (i : ClockInputs) (s : State) : Host.Outcome State Fault Refusal :=
  if i.rst then .next (resetInput cfg s)
  else if i.stepEn then
    if i.romWe then .refused .overlappingHostOperations else .next (stepWith cfg s)
  else if i.romWe then .next (romWrite s i.romWaddr i.romWdata)
  else .next s

/-- The outputs (spec/42_step_and_a_instruction.md R90). The address and the data of the M write are those of the
fetched compute-instruction; for an address-instruction the spec gives no `value`, and the model none
(notes/assumptions/15.md). DESIGN CHOICE (notes/assumptions/19.md): `ramWe` follows the conditions R90 lists, which name
neither `rst` nor `rom_we`, so it is the same at an edge that `clockEdge` makes a reset or refuses. -/
structure ClockOutputs where
  romAddr : Word
  romRdata : Word
  ramRaddr : Word
  ramRdata : Word
  ramWe : Bool
  ramWaddr : Option Word
  ramWdata : Option Word
  aQ : Word
  dQ : Word
  pcQ : Word
  deriving DecidableEq, Repr

/-- The outputs in a state (spec/42_step_and_a_instruction.md R90; R107 for the write address). -/
def clockOutputs (cfg : Config) (stepEn : Bool) (s : State) : ClockOutputs :=
  let p := decoderPorts (fetch s)
  let value := computeValue cfg p.comp p.dest s
  { romAddr := s.pc, romRdata := fetch s, ramRaddr := s.a, ramRdata := ramRead s s.a,
    ramWe := stepEn && p.isC && destM p.dest,
    ramWaddr := if p.isC then some (if destA p.dest then value else s.a) else none,
    ramWdata := if p.isC then some value else none,
    aQ := s.a, dQ := s.d, pcQ := s.pc }

end Sys2Proof.Machine
end

