-- ==== Sys2Proof/Safety.lean ====
section
/-! DEFINITION. The terms in which claims are stated: what a safe run is, the spec's own tables, and the invariant. -/

namespace Sys2Proof.Machine

/-! ## Runs -/

/-- A step that goes on; every step of this machine does (spec/42_step_and_a_instruction.md R92). -/
def StepGoesOn (s : State) : Prop := ∃ t, step s = .next t

/-- The end of a program: a fixed point of the step (spec/70_reset_and_hazards.md R187). -/
def AtEnd (s : State) : Prop := step s = .next s

/-- The canonical form of both memories; registers have no illegal value (spec/10_state.md R17). -/
def Inv (s : State) : Prop := s.rom.wf = true ∧ s.ram.wf = true

/-- The invariant of a machine of any configuration: the canonical form, and RAM cells of RAM_CELL_BITS bits
(spec/20_memory.md R34). -/
def InvFor (cfg : Config) (s : State) : Prop := Inv s ∧ s.ram.fits cfg = true

/-- Two states that agree in everything but the content of RAM. -/
def SameButRam (s t : State) : Prop := s.a = t.a ∧ s.d = t.d ∧ s.pc = t.pc ∧ s.rom = t.rom

/-! ## The spec's tables, as the spec writes them -/

/-- `value` for each destination mask and comp[2:0], the table of spec/43_c_instruction.md R125, with D and A as they
are before the step. It names no ALU stage and no control bit. -/
def tableValue (dest c : BitVec 3) (d a : Word) : Word :=
  match dest.toNat, c.toNat with
  | 0, 0 => d ||| a
  | 0, 1 => ~~~(d ||| a)
  | 0, 2 => d &&& a
  | 0, 3 => ~~~(d &&& a)
  | 0, 4 => d ||| ~~~a
  | 0, 5 => ~~~d &&& a
  | 0, 6 => d &&& ~~~a
  | 0, _ => ~~~d ||| a
  | 1, 0 => d
  | 1, 1 => ~~~d
  | 1, 2 => 0#16
  | 1, 3 => 0xFFFF#16
  | 1, 4 => 0xFFFF#16
  | 1, 5 => 0#16
  | 1, 6 => d
  | 1, _ => ~~~d
  | 2, 0 => ~~~d ||| a
  | 2, 1 => d &&& ~~~a
  | 2, 2 => ~~~d &&& a
  | 2, 3 => d ||| ~~~a
  | 2, 4 => ~~~(d &&& a)
  | 2, 5 => d &&& a
  | 2, 6 => ~~~(d ||| a)
  | 2, _ => d ||| a
  | 3, 0 => ~~~d
  | 3, 1 => d
  | 3, 2 => 0#16
  | 3, 3 => 0xFFFF#16
  | 3, 4 => 0xFFFF#16
  | 3, 5 => 0#16
  | 3, 6 => ~~~d
  | 3, _ => d
  | 4, 0 => a
  | 4, 1 => ~~~a
  | 4, 2 => 0#16
  | 4, 3 => 0xFFFF#16
  | 4, 4 => ~~~a
  | 4, 5 => a
  | 4, 6 => 0#16
  | 4, _ => 0xFFFF#16
  | 5, 0 => 0#16
  | 5, 1 => 0xFFFF#16
  | 5, 2 => 0#16
  | 5, 3 => 0xFFFF#16
  | 5, 4 => 0xFFFF#16
  | 5, 5 => 0#16
  | 5, 6 => 0#16
  | 5, _ => 0xFFFF#16
  | 6, 0 => 0xFFFF#16
  | 6, 1 => 0#16
  | 6, 2 => a
  | 6, 3 => ~~~a
  | 6, 4 => 0xFFFF#16
  | 6, 5 => 0#16
  | 6, 6 => ~~~a
  | 6, _ => a
  | _, 0 => 0xFFFF#16
  | _, 1 => 0#16
  | _, 2 => 0#16
  | _, 3 => 0xFFFF#16
  | _, 4 => 0xFFFF#16
  | _, 5 => 0#16
  | _, 6 => 0xFFFF#16
  | _, _ => 0#16

/-- The jump decision by the bits of the code: bit 2 for negative, bit 1 for zero, bit 0 for positive
(spec/43_c_instruction.md R119). -/
def jumpHolds (jump : BitVec 3) (v : Word) : Bool :=
  (jump.getLsbD 2 && decide (v.toInt < 0)) || (jump.getLsbD 1 && decide (v.toInt = 0))
    || (jump.getLsbD 0 && decide (v.toInt > 0))

/-- What a compute-instruction with the given comp[2:0], destination mask and jump code makes of `s`, by the tables of
spec/43_c_instruction.md R108, R119, R120 and R125: A and D, the next PC, ROM, and every RAM cell. -/
def ComputeResult (c dest jump : BitVec 3) (s t : State) : Prop :=
  t.a = (if dest.getLsbD 2 then tableValue dest c s.d s.a else s.a)
    ∧ t.d = (if dest.getLsbD 1 then tableValue dest c s.d s.a else s.d)
    ∧ t.pc.toNat = (if jumpHolds jump (tableValue dest c s.d s.a) then t.a.toNat else (s.pc.toNat + 1) % 65536)
    ∧ (∀ addr, romRead t addr = romRead s addr)
    ∧ (∀ addr, ramRead t addr =
        if dest.getLsbD 0 ∧ addr = t.a then tableValue dest c s.d s.a else ramRead s addr)

/-- The bit the ALU makes of a bit of each operand (spec/41_alu.md R85, bit-sliced). -/
def aluBit (c : AluCtrl) (x y : Bool) : Bool :=
  let x2 := (x && !c.zx) ^^ c.nx
  let y2 := (y && !c.zy) ^^ c.ny
  (if c.f then x2 && y2 else x2 || y2) ^^ c.no

/-! ## Sessions of the host -/

/-- The addresses a table has allocated, in order: those of the entries after the 23 predefined ones
(spec/44_assembler_and_load.md R132). -/
def allocated (t : SymbolTable) : List Nat := (t.map.drop predefinedSymbols.length).map Prod.snd

/-- A fresh table after the look-up of each name in turn (spec/44_assembler_and_load.md R133). -/
def lookupAll (names : List Text) : SymbolTable :=
  names.foldl (fun t name => (allocateOrGet t name).2) SymbolTable.fresh

/-- The names of a session that are not predefined, each once, in the order of their first use. -/
def newNames (names : List Text) : List Text :=
  (names.filter (fun name => (predefinedSymbols.lookup name).isNone)).eraseDups

end Sys2Proof.Machine
end

