-- ==== Sys2Proof/Certificates/Slice0/Obligations.lean ====
section
/-! DEFINITION. The statements about the machine, each with the rule of spec/ it formalises. -/

open Sys2Proof Sys2Proof.Machine

/-- R72, in arithmetic on the number of the word. -/
def Obligations.DecodeReadsTheFields : Prop :=
  ∀ w : Word,
    (w.toNat < 32768 → ∃ v : BitVec 15, decodeRecord w = .address v ∧ v.toNat = w.toNat)
    ∧ (32768 ≤ w.toNat → ∃ (a : BitVec 1) (comp : BitVec 6) (dest jump : BitVec 3),
        decodeRecord w = .compute a comp dest jump
        ∧ a.toNat = w.toNat / 4096 % 2 ∧ comp.toNat = w.toNat / 64 % 64
        ∧ dest.toNat = w.toNat / 8 % 8 ∧ jump.toNat = w.toNat % 8)
    ∧ (decoderPorts w).isC = decide (32768 ≤ w.toNat)
    ∧ (decoderPorts w).operand.toNat = w.toNat % 32768
    ∧ (decoderPorts w).a.toNat = w.toNat / 4096 % 2
    ∧ (decoderPorts w).comp.toNat = w.toNat / 64 % 64
    ∧ (decoderPorts w).dest.toNat = w.toNat / 8 % 8
    ∧ (decoderPorts w).jump.toNat = w.toNat % 8

/-- The worked examples of 40_decoder.md section 4 and 95_test_vectors.md section 2. DESIGN CHOICE (log 8): the constructor that names a compute record. -/
def Obligations.WrittenOutWordsDecode : Prop :=
  decode 0x0005 = .aInstr 5 ∧ decode 0x7FFF = .aInstr 32767
    ∧ decode 0xE308 = .cDestM 0 12 0 ∧ decode 0xFC10 = .cDestD 1 48 0
    ∧ decode 0xEA87 = .cJumpJMP 0 42 0 ∧ decode 0xF57D = .cInstr 1 21 7 5
    ∧ decode 0xE000 = .compDAndA 0 0 ∧ decode 0xFFFF = .cInstr 1 63 7 7
    ∧ decode 0x8040 = .cDestNone 0 1 0 ∧ decode 0x9040 = .cJumpNone 1 1 0

/-- R54. -/
def Obligations.DecodeDropsBitsFourteenThirteen : Prop :=
  (∀ (w : Word) (u : BitVec 2), w.getLsbD 15 = true →
      decodeRecord ((w &&& 0x9FFF#16) ||| (u.setWidth 16 <<< 13)) = decodeRecord w
      ∧ ∀ s, exec (decode ((w &&& 0x9FFF#16) ||| (u.setWidth 16 <<< 13))) s = exec (decode w) s)
    ∧ ∀ (a : BitVec 1) (comp : BitVec 6) (dest jump : BitVec 3),
        (pack (.compute a comp dest jump)).extractLsb' 13 3 = 0b111#3

/-- R77, the three parts of the round trip. -/
def Obligations.PackAndDecodeAreInverse : Prop :=
  (∀ r : Record, decodeRecord (pack r) = r)
    ∧ (∀ w : Word, w.getLsbD 15 = false ∨ w.extractLsb' 13 3 = 0b111#3 → pack (decodeRecord w) = w)
    ∧ ∀ w : Word, w.getLsbD 15 = true → pack (decodeRecord w) = w ||| 0x6000#16

/-- R77 (1) carried to the constructors of Instr. DESIGN CHOICE (log 8): which constructor names a record. -/
def Obligations.DecodeOfEncodeIsIdentity : Prop :=
  ∀ i : Instr, i.wellFormed = true → decode (encode i) = i

/-- R63, R75. DESIGN CHOICE (log 8): which constructor names a record. -/
def Obligations.DecodedInstructionIsWellFormed : Prop :=
  ∀ w : Word, (decode w).wellFormed = true ∧ (decode w).record = decodeRecord w ∧ (decode w).row.covers w = true

/-- R63, section 6 of 30_encoding.md. -/
def Obligations.OpcodeRowsCoverWords : Prop :=
  ∀ w : Word,
    ((Instr.aInstr 0).row.covers w = !(Instr.cInstr 0 0 0 0).row.covers w)
    ∧ (w.getLsbD 15 = true →
        (destRows.filter (·.covers w)).length = 1 ∧ (jumpRows.filter (·.covers w)).length = 1
        ∧ (compRows.filter (·.covers w)).length ≤ 1)

/-- R75, R87; the spec's decision D8. -/
def Obligations.SoftwareFormsRejectWideNumbers : Prop :=
  (∀ n, 65536 ≤ n → decodeSoftware n = .error .rangeError)
    ∧ (∀ w : Word, decodeSoftware w.toNat = .ok (decodeRecord w))
    ∧ (∀ x y c, 65536 ≤ x ∨ 65536 ≤ y → aluSoftware x y c = .error .rangeError)
    ∧ ∀ (x y : Word) (c : AluCtrl), aluSoftware x.toNat y.toNat c = .ok (alu x y c)

/-- R85, bit by bit, through aluBit. -/
def Obligations.AluIsBitSliced : Prop :=
  ∀ (x y : Word) (c : AluCtrl) (i : Nat), i < 16 →
    (alu x y c).getLsbD i = aluBit c (x.getLsbD i) (y.getLsbD i)

/-- R83; the XOR clause is R89. -/
def Obligations.AluHasNoAdder : Prop :=
  (∀ x y : Word, aluCombine true false x y = x &&& y ∧ aluCombine false false x y = x ||| y)
    ∧ (∀ x y : Word, alu x y ⟨false, false, false, false, true, false⟩ = x &&& y)
    ∧ (∀ x y : Word, alu x y ⟨false, false, false, false, false, false⟩ = x ||| y)
    ∧ ∀ c : AluCtrl,
        (¬ ∀ x y : Word, alu x y c = x + y) ∧ (¬ ∀ x y : Word, alu x y c = x - y)
        ∧ (¬ ∀ x y : Word, alu x y c = y - x) ∧ (¬ ∀ x y : Word, alu x y c = x + 1)
        ∧ (¬ ∀ x y : Word, alu x y c = y + 1) ∧ (¬ ∀ x y : Word, alu x y c = x - 1)
        ∧ (¬ ∀ x y : Word, alu x y c = y - 1) ∧ (¬ ∀ x y : Word, alu x y c = -x)
        ∧ (¬ ∀ x y : Word, alu x y c = -y) ∧ (¬ ∀ x y : Word, alu x y c = x ^^^ y)

/-- R89, the identities it derives from R85. -/
def Obligations.AluIdentities : Prop :=
  ∀ (x y : Word) (f : Bool),
    alu x y ⟨false, true, false, true, true, true⟩ = x ||| y
    ∧ alu x y ⟨false, true, false, true, false, true⟩ = x &&& y
    ∧ alu x y ⟨true, false, true, false, f, false⟩ = 0 ∧ alu x y ⟨true, false, true, false, f, true⟩ = 0xFFFF#16
    ∧ alu x y ⟨false, false, true, false, false, false⟩ = x ∧ alu x y ⟨true, false, false, false, false, false⟩ = y

/-- R93 to R96. -/
def Obligations.StepRunsDecodedInstruction : Prop :=
  (∀ (s : State) (i : Instr), decode (romRead s s.pc) = i → i.wellFormed = true → step s = exec i s)
    ∧ ∀ (s : State) (n : Nat) (w : Word),
        step (s.withFetchWord n w.toNat) = exec (decode w) (s.withFetchWord n w.toNat)

/-- R92, R163, R57. -/
def Obligations.EveryStepGoesOn : Prop :=
  (∀ s : State, StepGoesOn s) ∧ ∀ (i : Instr) (s : State), ∃ t, exec i s = .next t

/-- R96, R90; the default configuration is the spec's decision (log 1 to 3). -/
def Obligations.StepIsTheConfiguredTransition : Prop :=
  ∀ s : State, step s = .next (stepWith Config.default s)
    ∧ ∀ i : ClockInputs, i.rst = false → i.stepEn = true → i.romWe = false →
        clockEdge Config.default i s = step s

/-- R103, under the default CTRL_MAP (the spec's decision D1, log 1). -/
def Obligations.BehaviourDependsOnNineBits : Prop :=
  ∀ w1 w2 : Word, w1.getLsbD 15 = true → w2.getLsbD 15 = true → w1.extractLsb' 0 9 = w2.extractLsb' 0 9 →
    ∀ s : State, exec (decode w1) s = exec (decode w2) s

/-- R55, on words, for every configuration: bit 12 is in the record and at the port, the step is the same for both
values of it, and the M bit of the destination mask selects `y`. -/
def Obligations.MemorySelectFlagIsUnread : Prop :=
  (∀ w : Word, w.getLsbD 15 = true → ∃ (comp : BitVec 6) (dest jump : BitVec 3),
      decodeRecord w = .compute (w.extractLsb' 12 1) comp dest jump)
    ∧ (∀ w : Word, (decoderPorts w).a = w.extractLsb' 12 1)
    ∧ (∀ (a : BitVec 1) (comp : BitVec 6) (dest jump : BitVec 3),
        (pack (.compute a comp dest jump)).extractLsb' 12 1 = a
        ∧ (decoderPorts (pack (.compute a comp dest jump))).a = a)
    ∧ (∀ (w : Word) (s : State), w.getLsbD 15 = true →
        (∀ cfg : Config, stepRecord cfg (decodeRecord w) s = stepRecord cfg (decodeRecord (w ^^^ 0x1000#16)) s)
        ∧ exec (decode w) s = exec (decode (w ^^^ 0x1000#16)) s)
    ∧ (∀ (cfg : Config) (a a' : BitVec 1) (comp : BitVec 6) (dest jump : BitVec 3) (s : State),
        stepRecord cfg (.compute a comp dest jump) s = stepRecord cfg (.compute a' comp dest jump) s)
    ∧ ∀ (cfg : Config) (a : BitVec 1) (comp : BitVec 6) (dest jump : BitVec 3) (s : State), dest.getLsbD 1 = true →
        (stepRecord cfg (.compute a comp dest jump) s).d
          = alu s.d (if dest.getLsbD 0 then ramRead s s.a else s.a) (aluCtrl cfg.ctrlMap comp dest)

/-- R97, its effect and its frame. -/
def Obligations.AddressInstructionResult : Prop :=
  ∀ (v : BitVec 15) (s : State), ∃ t, exec (.aInstr v) s = .next t
    ∧ t.a.toNat = v.toNat ∧ t.a.getLsbD 15 = false ∧ t.pc.toNat = (s.pc.toNat + 1) % 65536 ∧ t.d = s.d
    ∧ (∀ addr, ramRead t addr = ramRead s addr) ∧ (∀ addr, romRead t addr = romRead s addr)

/-- R123 by the tables of R125, R108, R119, R120. Under the spec's decisions D1 to D4 (log 1 to 4). -/
def Obligations.ComputeInstructionResult : Prop :=
  ∀ (a : BitVec 1) (comp : BitVec 6) (dest jump : BitVec 3) (s : State),
    ∃ t, exec (.cInstr a comp dest jump) s = .next t ∧ ComputeResult (comp.extractLsb' 0 3) dest jump s t

/-- R108 with R125, R119, R120, row by row. Under the spec's decisions D1 to D4 (log 1 to 4). -/
def Obligations.DestRowsResult : Prop :=
  ∀ (a : BitVec 1) (comp : BitVec 6) (jump : BitVec 3) (s : State),
    (∃ t, exec (.cDestNone a comp jump) s = .next t ∧ ComputeResult (comp.extractLsb' 0 3) 0b000#3 jump s t) ∧
    (∃ t, exec (.cDestM a comp jump) s = .next t ∧ ComputeResult (comp.extractLsb' 0 3) 0b001#3 jump s t) ∧
    (∃ t, exec (.cDestD a comp jump) s = .next t ∧ ComputeResult (comp.extractLsb' 0 3) 0b010#3 jump s t) ∧
    (∃ t, exec (.cDestMD a comp jump) s = .next t ∧ ComputeResult (comp.extractLsb' 0 3) 0b011#3 jump s t) ∧
    (∃ t, exec (.cDestA a comp jump) s = .next t ∧ ComputeResult (comp.extractLsb' 0 3) 0b100#3 jump s t) ∧
    (∃ t, exec (.cDestAM a comp jump) s = .next t ∧ ComputeResult (comp.extractLsb' 0 3) 0b101#3 jump s t) ∧
    (∃ t, exec (.cDestAD a comp jump) s = .next t ∧ ComputeResult (comp.extractLsb' 0 3) 0b110#3 jump s t) ∧
    (∃ t, exec (.cDestAMD a comp jump) s = .next t ∧ ComputeResult (comp.extractLsb' 0 3) 0b111#3 jump s t)

/-- R111 to R118, by the ranges they name. Under the spec's decisions D1 to D4 (log 1 to 4). -/
def Obligations.JumpRowsResult : Prop :=
  ∀ (a : BitVec 1) (comp : BitVec 6) (dest : BitVec 3) (s : State),
    let v := tableValue dest (comp.extractLsb' 0 3) s.d s.a;
      (∃ t, exec (.cJumpNone a comp dest) s = .next t ∧ ComputeResult (comp.extractLsb' 0 3) dest 0b000#3 s t
        ∧ t.pc = s.pc + 1) ∧
      (∃ t, exec (.cJumpJGT a comp dest) s = .next t ∧ ComputeResult (comp.extractLsb' 0 3) dest 0b001#3 s t
        ∧ t.pc = if 1 ≤ v.toNat ∧ v.toNat ≤ 0x7FFF then t.a else s.pc + 1) ∧
      (∃ t, exec (.cJumpJEQ a comp dest) s = .next t ∧ ComputeResult (comp.extractLsb' 0 3) dest 0b010#3 s t
        ∧ t.pc = if v = 0 then t.a else s.pc + 1) ∧
      (∃ t, exec (.cJumpJGE a comp dest) s = .next t ∧ ComputeResult (comp.extractLsb' 0 3) dest 0b011#3 s t
        ∧ t.pc = if v.toNat ≤ 0x7FFF then t.a else s.pc + 1) ∧
      (∃ t, exec (.cJumpJLT a comp dest) s = .next t ∧ ComputeResult (comp.extractLsb' 0 3) dest 0b100#3 s t
        ∧ t.pc = if 0x8000 ≤ v.toNat then t.a else s.pc + 1) ∧
      (∃ t, exec (.cJumpJNE a comp dest) s = .next t ∧ ComputeResult (comp.extractLsb' 0 3) dest 0b101#3 s t
        ∧ t.pc = if v ≠ 0 then t.a else s.pc + 1) ∧
      (∃ t, exec (.cJumpJLE a comp dest) s = .next t ∧ ComputeResult (comp.extractLsb' 0 3) dest 0b110#3 s t
        ∧ t.pc = if v = 0 ∨ 0x8000 ≤ v.toNat then t.a else s.pc + 1) ∧
      (∃ t, exec (.cJumpJMP a comp dest) s = .next t ∧ ComputeResult (comp.extractLsb' 0 3) dest 0b111#3 s t
        ∧ t.pc = t.a)

/-- R140 (last column) with R125, R108, R119, R120. Under the spec's decisions D1 to D4 (log 1 to 4). -/
def Obligations.CompRowsResult : Prop :=
  ∀ (dest jump : BitVec 3) (s : State),
    (∃ t, exec (.comp0 dest jump) s = .next t ∧ ComputeResult 0b010#3 dest jump s t) ∧
    (∃ t, exec (.comp1 dest jump) s = .next t ∧ ComputeResult 0b111#3 dest jump s t) ∧
    (∃ t, exec (.compNeg1 dest jump) s = .next t ∧ ComputeResult 0b010#3 dest jump s t) ∧
    (∃ t, exec (.compD dest jump) s = .next t ∧ ComputeResult 0b100#3 dest jump s t) ∧
    (∃ t, exec (.compA dest jump) s = .next t ∧ ComputeResult 0b000#3 dest jump s t) ∧
    (∃ t, exec (.compNotD dest jump) s = .next t ∧ ComputeResult 0b101#3 dest jump s t) ∧
    (∃ t, exec (.compNotA dest jump) s = .next t ∧ ComputeResult 0b001#3 dest jump s t) ∧
    (∃ t, exec (.compNegD dest jump) s = .next t ∧ ComputeResult 0b111#3 dest jump s t) ∧
    (∃ t, exec (.compNegA dest jump) s = .next t ∧ ComputeResult 0b011#3 dest jump s t) ∧
    (∃ t, exec (.compDPlus1 dest jump) s = .next t ∧ ComputeResult 0b111#3 dest jump s t) ∧
    (∃ t, exec (.compAPlus1 dest jump) s = .next t ∧ ComputeResult 0b111#3 dest jump s t) ∧
    (∃ t, exec (.compDMinus1 dest jump) s = .next t ∧ ComputeResult 0b110#3 dest jump s t) ∧
    (∃ t, exec (.compAMinus1 dest jump) s = .next t ∧ ComputeResult 0b010#3 dest jump s t) ∧
    (∃ t, exec (.compDPlusA dest jump) s = .next t ∧ ComputeResult 0b010#3 dest jump s t) ∧
    (∃ t, exec (.compDMinusA dest jump) s = .next t ∧ ComputeResult 0b011#3 dest jump s t) ∧
    (∃ t, exec (.compAMinusD dest jump) s = .next t ∧ ComputeResult 0b111#3 dest jump s t) ∧
    (∃ t, exec (.compDAndA dest jump) s = .next t ∧ ComputeResult 0b000#3 dest jump s t) ∧
    (∃ t, exec (.compDOrA dest jump) s = .next t ∧ ComputeResult 0b101#3 dest jump s t)

/-- R140 (last column) with R125, R108, R119, R120. Under the spec's decisions D1 to D4 (log 1 to 4). -/
def Obligations.CompRowsOfMResult : Prop :=
  ∀ (dest jump : BitVec 3) (s : State),
    (∃ t, exec (.compM dest jump) s = .next t ∧ ComputeResult 0b000#3 dest jump s t) ∧
    (∃ t, exec (.compNotM dest jump) s = .next t ∧ ComputeResult 0b001#3 dest jump s t) ∧
    (∃ t, exec (.compNegM dest jump) s = .next t ∧ ComputeResult 0b011#3 dest jump s t) ∧
    (∃ t, exec (.compMPlus1 dest jump) s = .next t ∧ ComputeResult 0b111#3 dest jump s t) ∧
    (∃ t, exec (.compMMinus1 dest jump) s = .next t ∧ ComputeResult 0b010#3 dest jump s t) ∧
    (∃ t, exec (.compDPlusM dest jump) s = .next t ∧ ComputeResult 0b010#3 dest jump s t) ∧
    (∃ t, exec (.compDMinusM dest jump) s = .next t ∧ ComputeResult 0b011#3 dest jump s t) ∧
    (∃ t, exec (.compMMinusD dest jump) s = .next t ∧ ComputeResult 0b111#3 dest jump s t) ∧
    (∃ t, exec (.compDAndM dest jump) s = .next t ∧ ComputeResult 0b000#3 dest jump s t) ∧
    (∃ t, exec (.compDOrM dest jump) s = .next t ∧ ComputeResult 0b101#3 dest jump s t)

/-- R108, R107, R21; the store address rests on the spec's decision D4 (log 4). -/
def Obligations.ComputeFrame : Prop :=
  ∀ (i : Instr) (a : BitVec 1) (comp : BitVec 6) (dest jump : BitVec 3) (s t : State),
    i.record = .compute a comp dest jump → exec i s = .next t →
      (dest.getLsbD 2 = false → t.a = s.a) ∧ (dest.getLsbD 1 = false → t.d = s.d)
      ∧ (∀ addr, romRead t addr = romRead s addr)
      ∧ (dest.getLsbD 0 = false → ∀ addr, ramRead t addr = ramRead s addr)
      ∧ ∀ addr, addr ≠ (if dest.getLsbD 2 then computeValue Config.default comp dest s else s.a) →
          ramRead t addr = ramRead s addr

/-- R105 to R108, R34, R120, for every CTRL_MAP, JUMP_SIGNED and RAM_CELL_BITS; the spec's decision D4 (log 4). -/
def Obligations.DestinationsReceiveTheValue : Prop :=
  ∀ (cfg : Config) (a : BitVec 1) (comp : BitVec 6) (dest jump : BitVec 3) (s : State),
    let value := computeValue cfg comp dest s
    let t := stepRecord cfg (.compute a comp dest jump) s
    t.a = (if dest.getLsbD 2 then value else s.a) ∧ t.d = (if dest.getLsbD 1 then value else s.d)
      ∧ (t.pc = if taken cfg.jumpSigned jump value then t.a else s.pc + 1)
      ∧ (∀ addr, romRead t addr = romRead s addr)
      ∧ ∀ addr, (ramRead t addr).toNat =
          if dest.getLsbD 0 ∧ addr = t.a then value.toNat % 2 ^ cfg.ramCellBits % 65536
          else (ramRead s addr).toNat

/-- R101, R37, for every CTRL_MAP. -/
def Obligations.RamIsReadOnlyForDestM : Prop :=
  ∀ (cfg : Config) (a : BitVec 1) (comp : BitVec 6) (dest jump : BitVec 3) (s t : State),
    dest.getLsbD 0 = false → SameButRam s t →
      SameButRam (stepRecord cfg (.compute a comp dest jump) s) (stepRecord cfg (.compute a comp dest jump) t)
      ∧ (stepRecord cfg (.compute a comp dest jump) s).ram = s.ram
      ∧ (stepRecord cfg (.compute a comp dest jump) t).ram = t.ram

/-- R111, R113, R116, R118. -/
def Obligations.SignFreeJumpCodes : Prop :=
  ∀ (js : Bool) (v : Word),
    taken js 0 v = false ∧ (taken js 2 v = true ↔ v = 0) ∧ (taken js 5 v = true ↔ v ≠ 0) ∧ taken js 7 v = true

/-- R112, R114, R115, R117, R119; the signed reading is the spec's decision D2 (log 2). -/
def Obligations.SignedJumpCodes : Prop :=
  ∀ v : Word,
    (taken true 1 v = true ↔ 0x0001 ≤ v.toNat ∧ v.toNat ≤ 0x7FFF) ∧ (taken true 3 v = true ↔ v.toNat ≤ 0x7FFF)
    ∧ (taken true 4 v = true ↔ 0x8000 ≤ v.toNat) ∧ (taken true 6 v = true ↔ v = 0 ∨ 0x8000 ≤ v.toNat)
    ∧ ∀ jump : BitVec 3, taken true jump v = jumpHolds jump v

/-- R110, last sentence (the spec's decision D2, log 2). -/
def Obligations.UnsignedJumpCodesCollapse : Prop :=
  ∀ v : Word, taken false 1 v = taken false 5 v ∧ taken false 3 v = taken false 7 v
    ∧ taken false 4 v = taken false 0 v ∧ taken false 6 v = taken false 2 v

/-- R16, R120, R121; the new A is the spec's decision D4 (log 4). -/
def Obligations.PcMovesByOneOrToA : Prop :=
  ∀ (i : Instr) (s t : State), exec i s = .next t →
    t.pc.toNat = (s.pc.toNat + 1) % 65536
    ∨ ∃ a comp dest jump, i.record = .compute a comp dest jump
        ∧ taken true jump (computeValue Config.default comp dest s) = true ∧ t.pc = t.a

/-- R12. -/
def Obligations.OnlyDestDWritesD : Prop :=
  (∀ (i : Instr) (s t : State), exec i s = .next t → t.d ≠ s.d →
      ∃ a comp dest jump, i.record = .compute a comp dest jump ∧ dest.getLsbD 1 = true
        ∧ t.d = computeValue Config.default comp dest s)
    ∧ ∀ (v : BitVec 15) (s t : State) (d : Word), exec (.aInstr v) s = .next t →
        exec (.aInstr v) (setD s d) = .next (setD t d)

/-- R124, R187. -/
def Obligations.FixedPointOfAJumpToItself : Prop :=
  ∀ (s : State) (a : BitVec 1) (comp : BitVec 6) (jump : BitVec 3),
    decodeRecord (romRead s s.pc) = .compute a comp 0 jump →
    taken true jump (computeValue Config.default comp 0 s) = true → s.a = s.pc →
      AtEnd s ∧ ∀ n, Host.Core.run Sys2Proof.core n s = .next s

/-- R21, R45, R152, R92. -/
def Obligations.NoInstructionWritesRom : Prop :=
  ∀ (n : Nat) (s : State), ∃ t, Host.Core.run Sys2Proof.core n s = .next t ∧ t.rom = s.rom

/-- R30, R31, R34 for the model's memories (log 7). -/
def Obligations.StepKeepsTheInvariant : Prop :=
  ∀ s t : State, Inv s → step s = .next t → Inv t

/-- R25 for the model's memories (log 7). -/
def Obligations.ResetMeetsTheInvariant : Prop :=
  Inv State.reset ∧ ∀ (cfg : Config) (s : State), construct cfg none = .next s → InvFor cfg s

/-- R194, R34, R44 (the spec's decisions D3 and D11, log 3 and 6). The model's own: the canonical form (log 7, DEDUCED),
and that the cells the owner supplies or writes are cut to the cell width (log 6, DESIGN CHOICE). -/
def Obligations.HostMovesKeepTheInvariant : Prop :=
  ∀ (cfg : Config) (m : HostMove) (h h' : Session),
    InvFor cfg h.machine → hostMove cfg m h = .next h' → InvFor cfg h'.machine

/-- The model's form of a memory of 65536 cells (log 7, DEDUCED from R31). -/
def Obligations.CanonicalMemoriesAreDetermined : Prop :=
  ∀ m m' : Memory, m.wf = true → m'.wf = true → (∀ k, k < 65536 → m.read k = m'.read k) → m = m'

/-- R104 item 1, over runs of any length (the spec's decision D1, log 1). -/
def Obligations.RamNeverReachesTheRegisters : Prop :=
  ∀ (n : Nat) (s t : State), SameButRam s t →
    ∃ s' t', Host.Core.run Sys2Proof.core n s = .next s' ∧ Host.Core.run Sys2Proof.core n t = .next t'
      ∧ SameButRam s' t' ∧ ∀ addr, ramRead s addr = ramRead t addr → ramRead s' addr = ramRead t' addr

/-- R99; the reset values of A, D, PC are the spec's decision D5 (log 5). -/
def Obligations.EmptyRomRun : Prop :=
  ∀ n : Nat, ∃ t, Host.Core.run Sys2Proof.core n State.reset = .next t
    ∧ t.pc.toNat = n % 65536 ∧ t.a = 0 ∧ t.d = 0
    ∧ (∀ addr, ramRead t addr = 0) ∧ ∀ addr, romRead t addr = 0

/-- R25, R181; PC, A, D are the spec's decision D5 (log 5). -/
def Obligations.ResetState : Prop :=
  State.reset.pc = 0 ∧ State.reset.a = 0 ∧ State.reset.d = 0
    ∧ (∀ addr, romRead State.reset addr = 0) ∧ (∀ addr, ramRead State.reset addr = 0)
    ∧ construct Config.default none = .next State.reset

/-- R152, R45, R194. -/
def Obligations.LoadedWordIsFetched : Prop :=
  (∀ (s : State) (w : Word), step (romWrite s s.pc w) = exec (decode w) (romWrite s s.pc w))
    ∧ ∀ (cfg : Config) (m : HostMove) (h h' : Session), hostMove cfg m h = .next h' →
        (∃ addr, romRead h'.machine addr ≠ romRead h.machine addr) →
          (∃ text address, m = .load text address) ∨ ∃ external, m = .reset external

/-- R150. -/
def Obligations.LoadWritesOneRomCell : Prop :=
  ∀ (cfg : Config) (text : Text) (address : Nat) (h : Session), address < 65536 →
    (∀ w t, encodeText text h.symbols = .ok (w, t) →
      ∃ h', hostMove cfg (.load text address) h = .next h' ∧ h'.symbols = t
        ∧ h'.machine.a = h.machine.a ∧ h'.machine.d = h.machine.d ∧ h'.machine.pc = h.machine.pc
        ∧ h'.machine.ram = h.machine.ram
        ∧ ∀ addr : Word, romRead h'.machine addr = if addr.toNat = address then w else romRead h.machine addr)
    ∧ ∀ e, encodeText text h.symbols = .error e → hostMove cfg (.load text address) h = .fault (.rejected e)

/-- R180, R182, R190, R98, R151; the ports are the spec's decisions D5 to D7 (log 10). -/
def Obligations.ClockEdgeCases : Prop :=
  ∀ (cfg : Config) (i : ClockInputs) (s : State),
    (i.rst = true → ∃ t, clockEdge cfg i s = .next t ∧ t.pc = cfg.resetPc ∧ t.a = cfg.resetA ∧ t.d = cfg.resetD
        ∧ (∀ addr, romRead t addr = 0)
        ∧ ∀ addr, ramRead t addr = if cfg.externalRam then ramRead s addr else 0)
    ∧ (i.rst = false → i.stepEn = true → i.romWe = true →
        clockEdge cfg i s = .refused .overlappingHostOperations)
    ∧ (i.rst = false → i.stepEn = false → i.romWe = true →
        ∃ t, clockEdge cfg i s = .next t ∧ t.a = s.a ∧ t.d = s.d ∧ t.pc = s.pc ∧ t.ram = s.ram
          ∧ ∀ addr, romRead t addr = if addr = i.romWaddr then i.romWdata else romRead s addr)
    ∧ (i.rst = false → i.stepEn = false → i.romWe = false → clockEdge cfg i s = .next s)

/-- R90, R98, R107; the ports are the spec's decision D6 (log 10, 15). `step` is an edge with rst = 0: of `ram_we` at
another edge see log 19. -/
def Obligations.RamWritePortIsTheStepsWrite : Prop :=
  (∀ s t : State, step s = .next t → ∀ addr : Word,
      ramRead t addr =
        if (clockOutputs Config.default true s).ramWe = true ∧ (clockOutputs Config.default true s).ramWaddr = some addr
        then (clockOutputs Config.default true s).ramWdata.getD 0 else ramRead s addr)
    ∧ ∀ (cfg : Config) (s : State), (clockOutputs cfg false s).ramWe = false

/-- R44, R182, R194 (the spec's decisions D11, D20, log 6). The model's own (log 6, DESIGN CHOICE): the owner's supplied
and written values are cut to the cell width by `ramCell`, which changes a value only for RAM_CELL_BITS below 16. -/
def Obligations.ExternalRamMoves : Prop :=
  (∀ (cfg : Config) (h : Session) (addr v : Word), cfg.externalRam = true →
      hostMove cfg (.externalRead addr) h = .next h
      ∧ ∃ h', hostMove cfg (.externalWrite addr v) h = .next h' ∧ h'.symbols = h.symbols
        ∧ h'.machine.a = h.machine.a ∧ h'.machine.d = h.machine.d ∧ h'.machine.pc = h.machine.pc
        ∧ h'.machine.rom = h.machine.rom
        ∧ ∀ b, ramRead h'.machine b = if b = addr then ramCell cfg v else ramRead h.machine b)
    ∧ (∀ (cfg : Config) (h : Session) (addr v : Word), cfg.externalRam = false →
        hostMove cfg (.externalRead addr) h = .refused .noExternalRam
        ∧ hostMove cfg (.externalWrite addr v) h = .refused .noExternalRam)
    ∧ ∀ (cfg : Config) (cells : List Word), cfg.externalRam = true →
        (cells.length = 65536 → ∃ s, construct cfg (some cells) = .next s ∧ s.pc = cfg.resetPc
          ∧ ∀ addr : Word, ramRead s addr = ramCell cfg (cells.getD addr.toNat 0))
        ∧ (cells.length ≠ 65536 → construct cfg (some cells) = .refused .externalRamSize)

/-- R133. -/
def Obligations.AllocateOrGetIsStable : Prop :=
  SymbolTable.fresh.nextAllocation = 16
    ∧ ∀ (t : SymbolTable) (name : Text),
      (∀ addr, t.map.lookup name = some addr → allocateOrGet t name = (addr, t))
      ∧ (t.map.lookup name = none →
          (allocateOrGet t name).1 = t.nextAllocation
          ∧ (allocateOrGet t name).2.nextAllocation = t.nextAllocation + 1
          ∧ (allocateOrGet t name).2.map.lookup name = some t.nextAllocation)
      ∧ (∀ other addr, t.map.lookup other = some addr → (allocateOrGet t name).2.map.lookup other = some addr)
      ∧ allocateOrGet (allocateOrGet t name).2 name = allocateOrGet t name

/-- R135, R133, R132. That an allocation from the 16369th on follows the algorithm too is DEDUCED (log 11, from U9);
the clause of R135 that no address collides with a predefined one is stated for up to 16368 allocations (C9). -/
def Obligations.AllocatedAddressesCountFromSixteen : Prop :=
  ∀ names : List Text,
    (lookupAll names).map
      = predefinedSymbols ++ (newNames names).zip (List.range' 16 (newNames names).length)
    ∧ allocated (lookupAll names) = List.range' 16 (newNames names).length
    ∧ (lookupAll names).nextAllocation = 16 + (newNames names).length
    ∧ (∀ (i : Nat) (h : i < (newNames names).length),
        (lookupAll names).map.lookup (newNames names)[i] = some (16 + i))
    ∧ (lookupAll names).map.take predefinedSymbols.length = predefinedSymbols
    ∧ ((newNames names).length ≤ 16368 →
        ∀ addr ∈ allocated (lookupAll names), addr ∉ predefinedSymbols.map Prod.snd)

/-- R138, the property the source states (leading zeros, decision D13, are not in it). -/
def Obligations.LiteralsAssembleToThemselves : Prop :=
  ∀ (v : Nat) (t : SymbolTable),
    (v < 32768 → ∃ w, encodeText ('@' :: Nat.toDigits 10 v) t = .ok (w, t)
        ∧ decodeRecord w = .address (BitVec.ofNat 15 v) ∧ w.toNat = v)
    ∧ (32768 ≤ v → encodeText ('@' :: Nat.toDigits 10 v) t = .error .rangeError)

/-- R140 to R145, R62; the codes are general knowledge (G1, log 13). -/
def Obligations.MnemonicTextsAssemble : Prop :=
  ∀ (m : Text) (code : BitVec 7) (d : Text) (mask : BitVec 3) (j : Text) (jump : BitVec 3) (t : SymbolTable),
    (m, code) ∈ compTable → destMask d = some mask → (j, jump) ∈ jumpTable →
      encodeText m t = .ok (pack (.compute (code.extractLsb' 6 1) (code.extractLsb' 0 6) 0 0), t)
      ∧ encodeText (d ++ '=' :: m) t = .ok (pack (.compute (code.extractLsb' 6 1) (code.extractLsb' 0 6) mask 0), t)
      ∧ encodeText (m ++ ';' :: j) t = .ok (pack (.compute (code.extractLsb' 6 1) (code.extractLsb' 0 6) 0 jump), t)
      ∧ encodeText (d ++ '=' :: (m ++ ';' :: j)) t =
          .ok (pack (.compute (code.extractLsb' 6 1) (code.extractLsb' 0 6) mask jump), t)

/-- R147, R137, R165; the spec's decisions D13 to D15 (log 14). -/
def Obligations.EncodeErrorsHaveTheirClass : Prop :=
  (∀ (text : Text) (t : SymbolTable) (e : HostError), text.head? ≠ some '@' → encodeText text t = .error e →
      e = .syntaxError)
    ∧ ∀ (rest : Text) (t : SymbolTable),
        encodeText ('@' :: rest) t = .error .syntaxError
          ↔ ¬ (rest ≠ [] ∧ ((∀ c ∈ rest, isDigitChar c = true) ∨ ∀ c ∈ rest, isNameChar c = true))
end

