-- ==== Sys2Proof/Laws/Alu.lean ====
section
/-! SUPPORT. The small lemmas of the ALU controls and of the jump decision. -/

namespace Sys2Proof.Machine

/-- The controls under the default CTRL_MAP (R102). -/
theorem aluCtrl_default (comp : BitVec 6) (dest : BitVec 3) :
    aluCtrl Config.default.ctrlMap comp dest =
      ⟨dest.getLsbD 2, dest.getLsbD 1, dest.getLsbD 0, comp.getLsbD 2, comp.getLsbD 1, comp.getLsbD 0⟩ := rfl

theorem not16_eq_not (v : Word) : not16 v = ~~~v := by
  ext i hi
  simp only [not16]
  interval_cases i <;> simp

/-- `signed16` is the signed reading of a bit vector. -/
theorem signed16_eq_toInt (v : Word) : signed16 v = v.toInt := by
  have h := v.isLt
  rw [signed16, BitVec.toInt]
  split <;> split <;> omega

theorem jumpNumber_signed (v : Word) : jumpNumber true v = v.toInt := signed16_eq_toInt v

theorem jumpNumber_unsigned (v : Word) : jumpNumber false v = (v.toNat : Int) := rfl

theorem taken_none (js : Bool) (v : Word) : taken js 0 v = false := rfl

theorem taken_jgt (js : Bool) (v : Word) : taken js 1 v = decide (jumpNumber js v > 0) := rfl

theorem taken_jeq (js : Bool) (v : Word) : taken js 2 v = decide (jumpNumber js v = 0) := rfl

theorem taken_jge (js : Bool) (v : Word) : taken js 3 v = decide (jumpNumber js v ≥ 0) := rfl

theorem taken_jlt (js : Bool) (v : Word) : taken js 4 v = decide (jumpNumber js v < 0) := rfl

theorem taken_jne (js : Bool) (v : Word) : taken js 5 v = decide (jumpNumber js v ≠ 0) := rfl

theorem taken_jle (js : Bool) (v : Word) : taken js 6 v = decide (jumpNumber js v ≤ 0) := rfl

theorem taken_jmp (js : Bool) (v : Word) : taken js 7 v = true := rfl

end Sys2Proof.Machine
end

