-- ==== Sys2Proof/Laws/State.lean ====
section
/-! SUPPORT. What each update of the state does to each field. -/

namespace Sys2Proof.Machine

@[simp] theorem setA_a (s : State) (v : Word) : (setA s v).a = v := rfl
@[simp] theorem setA_d (s : State) (v : Word) : (setA s v).d = s.d := rfl
@[simp] theorem setA_pc (s : State) (v : Word) : (setA s v).pc = s.pc := rfl
@[simp] theorem setA_rom (s : State) (v : Word) : (setA s v).rom = s.rom := rfl
@[simp] theorem setA_ram (s : State) (v : Word) : (setA s v).ram = s.ram := rfl

@[simp] theorem setD_a (s : State) (v : Word) : (setD s v).a = s.a := rfl
@[simp] theorem setD_d (s : State) (v : Word) : (setD s v).d = v := rfl
@[simp] theorem setD_pc (s : State) (v : Word) : (setD s v).pc = s.pc := rfl
@[simp] theorem setD_rom (s : State) (v : Word) : (setD s v).rom = s.rom := rfl
@[simp] theorem setD_ram (s : State) (v : Word) : (setD s v).ram = s.ram := rfl

@[simp] theorem setPc_a (s : State) (v : Word) : (setPc s v).a = s.a := rfl
@[simp] theorem setPc_d (s : State) (v : Word) : (setPc s v).d = s.d := rfl
@[simp] theorem setPc_pc (s : State) (v : Word) : (setPc s v).pc = v := rfl
@[simp] theorem setPc_rom (s : State) (v : Word) : (setPc s v).rom = s.rom := rfl
@[simp] theorem setPc_ram (s : State) (v : Word) : (setPc s v).ram = s.ram := rfl

@[simp] theorem romWrite_a (s : State) (addr v : Word) : (romWrite s addr v).a = s.a := rfl
@[simp] theorem romWrite_d (s : State) (addr v : Word) : (romWrite s addr v).d = s.d := rfl
@[simp] theorem romWrite_pc (s : State) (addr v : Word) : (romWrite s addr v).pc = s.pc := rfl
@[simp] theorem romWrite_rom (s : State) (addr v : Word) : (romWrite s addr v).rom = s.rom.write addr.toNat v := rfl
@[simp] theorem romWrite_ram (s : State) (addr v : Word) : (romWrite s addr v).ram = s.ram := rfl

@[simp] theorem ramWrite_a (cfg : Config) (s : State) (addr v : Word) : (ramWrite cfg s addr v).a = s.a := rfl
@[simp] theorem ramWrite_d (cfg : Config) (s : State) (addr v : Word) : (ramWrite cfg s addr v).d = s.d := rfl
@[simp] theorem ramWrite_pc (cfg : Config) (s : State) (addr v : Word) : (ramWrite cfg s addr v).pc = s.pc := rfl
@[simp] theorem ramWrite_rom (cfg : Config) (s : State) (addr v : Word) : (ramWrite cfg s addr v).rom = s.rom := rfl
@[simp] theorem ramWrite_ram (cfg : Config) (s : State) (addr v : Word) : (ramWrite cfg s addr v).ram = s.ram.write addr.toNat (ramCell cfg v) := rfl

@[simp] theorem State.withFetchWord_a (s : State) (nbits w : Nat) : (s.withFetchWord nbits w).a = s.a := rfl
@[simp] theorem State.withFetchWord_d (s : State) (nbits w : Nat) : (s.withFetchWord nbits w).d = s.d := rfl
@[simp] theorem State.withFetchWord_pc (s : State) (nbits w : Nat) : (s.withFetchWord nbits w).pc = s.pc := rfl
@[simp] theorem State.withFetchWord_rom (s : State) (nbits w : Nat) : (s.withFetchWord nbits w).rom = s.rom.write s.pc.toNat (BitVec.ofNat 16 w) := rfl
@[simp] theorem State.withFetchWord_ram (s : State) (nbits w : Nat) : (s.withFetchWord nbits w).ram = s.ram := rfl

@[simp] theorem State.reset_a : State.reset.a = 0 := rfl
@[simp] theorem State.reset_d : State.reset.d = 0 := rfl
@[simp] theorem State.reset_pc : State.reset.pc = 0 := rfl
@[simp] theorem State.reset_rom : State.reset.rom = [] := rfl
@[simp] theorem State.reset_ram : State.reset.ram = [] := rfl

end Sys2Proof.Machine
end

