-- ==== Sys2Proof/Laws/Memory.lean ====
section
/-! SUPPORT. The laws of the memory operations: what a write leaves in every cell, and that every operation keeps the
canonical form. -/

namespace Sys2Proof.Machine

/-! ## Read after write -/

theorem Memory.read_cons (c : MemCell) (m : Memory) (k : Nat) :
    Memory.read (c :: m) k = if c.1 = k then c.2 else m.read k := rfl

theorem Memory.read_erase (m : Memory) (k j : Nat) : (m.erase k).read j = if j = k then 0 else m.read j := by
  induction m with
  | nil => simp [Memory.erase, Memory.read]
  | cons c m ih =>
    simp only [Memory.erase] at ih
    by_cases hc : c.1 = k
    · simp only [Memory.erase, Memory.read, List.filter, hc, bne_self_eq_false, ih]
      by_cases hj : j = k
      · simp [hj]
      · simp [hj, Ne.symm hj]
    · have : (c.1 != k) = true := by simpa using hc
      simp only [Memory.erase, Memory.read, List.filter, this, ih]
      by_cases hj : c.1 = j
      · subst hj
        simp [hc]
      · simp [hj]

theorem Memory.read_insert (m : Memory) (k j : Nat) (v : Word) (hk : m.read k = 0 ∧ ∀ c ∈ m, c.1 ≠ k) :
    (Memory.insert k v m).read j = if j = k then v else m.read j := by
  obtain ⟨-, hk⟩ := hk
  induction m with
  | nil => simp only [Memory.insert, Memory.read, eq_comm]
  | cons c m ih =>
    have hc : c.1 ≠ k := hk c (by simp)
    have ih := ih fun c' h => hk c' (by simp [h])
    by_cases hlt : k < c.1
    · simp only [Memory.insert, hlt, if_true, Memory.read]
      by_cases hj : j = k
      · simp [hj]
      · rw [if_neg (Ne.symm hj), if_neg hj]
    · simp only [Memory.insert, hlt, if_false, Memory.read, ih]
      by_cases hj : j = k
      · subst hj
        simp [hc]
      · simp [hj]

theorem Memory.not_mem_erase (m : Memory) (k : Nat) : ∀ c ∈ m.erase k, c.1 ≠ k := by
  intro c hc
  simpa using (List.mem_filter.mp hc).2

/-- What a write leaves in every cell. -/
theorem Memory.read_write (m : Memory) (k j : Nat) (v : Word) :
    (m.write k v).read j = if j = k then v else m.read j := by
  unfold Memory.write
  by_cases hv : v = 0
  · simp [hv, Memory.read_erase]
  · rw [if_neg hv, Memory.read_insert _ _ _ _ ⟨by simp [Memory.read_erase], Memory.not_mem_erase m k⟩,
      Memory.read_erase]
    by_cases hj : j = k <;> simp [hj]

/-! ## The canonical form -/

theorem Memory.wfFrom_cons (lo : Nat) (c : MemCell) (m : Memory) :
    Memory.wfFrom lo (c :: m) = true ↔ lo ≤ c.1 ∧ c.1 < 65536 ∧ c.2 ≠ 0 ∧ Memory.wfFrom (c.1 + 1) m = true := by
  simp [Memory.wfFrom, and_assoc]

theorem Memory.wfFrom_mono {lo lo' : Nat} (h : lo' ≤ lo) {m : Memory} (hm : Memory.wfFrom lo m = true) :
    Memory.wfFrom lo' m = true := by
  cases m with
  | nil => rfl
  | cons c m =>
    rw [Memory.wfFrom_cons] at hm ⊢
    exact ⟨h.trans hm.1, hm.2⟩

theorem Memory.wfFrom_erase {lo : Nat} {m : Memory} (k : Nat) (hm : Memory.wfFrom lo m = true) :
    Memory.wfFrom lo (m.erase k) = true := by
  induction m generalizing lo with
  | nil => rfl
  | cons c m ih =>
    rw [Memory.wfFrom_cons] at hm
    have hrest := ih hm.2.2.2
    simp only [Memory.erase] at hrest ⊢
    by_cases hc : c.1 = k
    · have : (c.1 != k) = false := by simpa using hc
      rw [List.filter_cons_of_neg (by simp [this])]
      exact Memory.wfFrom_mono (by omega) hrest
    · rw [List.filter_cons_of_pos (by simpa using hc), Memory.wfFrom_cons]
      exact ⟨hm.1, hm.2.1, hm.2.2.1, hrest⟩

theorem Memory.wfFrom_insert {lo : Nat} {m : Memory} {k : Nat} {v : Word} (hm : Memory.wfFrom lo m = true)
    (hlo : lo ≤ k) (hk : k < 65536) (hv : v ≠ 0) (hnew : ∀ c ∈ m, c.1 ≠ k) :
    Memory.wfFrom lo (Memory.insert k v m) = true := by
  induction m generalizing lo with
  | nil => exact (Memory.wfFrom_cons lo (k, v) []).mpr ⟨hlo, hk, hv, rfl⟩
  | cons c m ih =>
    have hm' := (Memory.wfFrom_cons lo c m).mp hm
    have hc : c.1 ≠ k := hnew c (by simp)
    by_cases hlt : k < c.1
    · simp only [Memory.insert, hlt, if_true]
      rw [Memory.wfFrom_cons, Memory.wfFrom_cons]
      exact ⟨hlo, hk, hv, hlt, hm'.2⟩
    · simp only [Memory.insert, hlt, if_false]
      rw [Memory.wfFrom_cons]
      exact ⟨hm'.1, hm'.2.1, hm'.2.2.1, ih hm'.2.2.2 (by omega) fun c' h => hnew c' (by simp [h])⟩

/-- Every write keeps the canonical form. -/
theorem Memory.wf_write {m : Memory} (hm : m.wf = true) {k : Nat} (hk : k < 65536) (v : Word) :
    (m.write k v).wf = true := by
  unfold Memory.write Memory.wf
  by_cases hv : v = 0
  · rw [if_pos hv]
    exact Memory.wfFrom_erase k hm
  · rw [if_neg hv]
    exact Memory.wfFrom_insert (Memory.wfFrom_erase k hm) (Nat.zero_le k) hk hv (Memory.not_mem_erase m k)

theorem Memory.wf_nil : Memory.wf [] = true := rfl

theorem Memory.wfFrom_ofCells {k : Nat} {vs : List Word} (h : k + vs.length ≤ 65536) :
    Memory.wfFrom k (Memory.ofCells k vs) = true := by
  induction vs generalizing k with
  | nil => rfl
  | cons v vs ih =>
    simp only [List.length_cons] at h
    have hrest := ih (k := k + 1) (by omega)
    by_cases hv : v = 0
    · rw [Memory.ofCells, if_pos hv]
      exact Memory.wfFrom_mono (by omega) hrest
    · rw [Memory.ofCells, if_neg hv, Memory.wfFrom_cons]
      exact ⟨le_refl k, by show k < 65536; omega, hv, hrest⟩

/-- A supplied memory is in canonical form. -/
theorem Memory.wf_ofCells {vs : List Word} (h : vs.length ≤ 65536) : (Memory.ofCells 0 vs).wf = true :=
  Memory.wfFrom_ofCells (by omega)

theorem Memory.read_ofCells_below {k j : Nat} {vs : List Word} (h : j < k) : (Memory.ofCells k vs).read j = 0 := by
  induction vs generalizing k with
  | nil => rfl
  | cons v vs ih =>
    have hrest := ih (k := k + 1) (by omega)
    by_cases hv : v = 0
    · rw [Memory.ofCells, if_pos hv, hrest]
    · rw [Memory.ofCells, if_neg hv, Memory.read_cons, if_neg (by show k ≠ j; omega), hrest]

/-- What a supplied memory holds in every cell. -/
theorem Memory.read_ofCells (k j : Nat) (vs : List Word) : (Memory.ofCells k vs).read (k + j) = vs.getD j 0 := by
  induction vs generalizing k j with
  | nil => simp [Memory.ofCells, Memory.read]
  | cons v vs ih =>
    cases j with
    | zero =>
      by_cases hv : v = 0
      · rw [Memory.ofCells, if_pos hv, Memory.read_ofCells_below (by omega)]
        simp [hv]
      · rw [Memory.ofCells, if_neg hv, Memory.read_cons]
        simp
    | succ j =>
      have hrest := ih (k + 1) j
      rw [show k + 1 + j = k + (j + 1) by omega] at hrest
      by_cases hv : v = 0
      · rw [Memory.ofCells, if_pos hv, hrest]
        simp
      · rw [Memory.ofCells, if_neg hv, Memory.read_cons, if_neg (by show k ≠ k + (j + 1); omega), hrest]
        simp

/-! ## Cells of RAM_CELL_BITS bits -/

theorem ramCell_toNat_lt (cfg : Config) (v : Word) : (ramCell cfg v).toNat < 2 ^ cfg.ramCellBits := by
  have h := Nat.mod_lt v.toNat (Nat.two_pow_pos cfg.ramCellBits)
  simp only [ramCell, BitVec.toNat_ofNat]
  exact lt_of_le_of_lt (Nat.mod_le _ _) h

/-- With 16-bit cells a RAM cell keeps the whole word. -/
theorem ramCell_default (v : Word) : ramCell Config.default v = v := by
  apply BitVec.eq_of_toNat_eq
  have h : v.toNat < 65536 := v.isLt
  simp only [ramCell, BitVec.toNat_ofNat]
  show v.toNat % 2 ^ 16 % 2 ^ 16 = v.toNat
  omega

theorem Memory.fits_write {cfg : Config} {m : Memory} (hm : m.fits cfg = true) (k : Nat) (v : Word) :
    (m.write k (ramCell cfg v)).fits cfg = true := by
  simp only [Memory.fits, List.all_eq_true, decide_eq_true_eq] at hm ⊢
  have herase : ∀ c ∈ m.erase k, c.2.toNat < 2 ^ cfg.ramCellBits := fun c h => hm c (List.mem_filter.mp h).1
  have hins : ∀ (l : Memory), (∀ c ∈ l, c.2.toNat < 2 ^ cfg.ramCellBits) →
      ∀ c ∈ Memory.insert k (ramCell cfg v) l, c.2.toNat < 2 ^ cfg.ramCellBits := by
    intro l
    induction l with
    | nil =>
      intro _ c hc
      simp only [Memory.insert, List.mem_singleton] at hc
      exact hc ▸ ramCell_toNat_lt cfg v
    | cons x l ih =>
      intro hl c hc
      by_cases hlt : k < x.1
      · simp only [Memory.insert, hlt, if_true, List.mem_cons] at hc
        rcases hc with rfl | hc | hc
        · exact ramCell_toNat_lt cfg v
        · exact hl c (by simp [hc])
        · exact hl c (by simp [hc])
      · simp only [Memory.insert, hlt, if_false, List.mem_cons] at hc
        rcases hc with rfl | hc
        · exact hl c (by simp)
        · exact ih (fun c' h => hl c' (by simp [h])) c hc
  unfold Memory.write
  split
  · exact herase
  · exact hins _ herase

/-! ## ROM and RAM of a state -/

theorem romRead_romWrite (s : State) (addr v b : Word) :
    romRead (romWrite s addr v) b = if b = addr then v else romRead s b := by
  simp only [romRead, romWrite_rom, Memory.read_write]
  by_cases h : b = addr
  · simp [h]
  · rw [if_neg h, if_neg fun h' => h (BitVec.eq_of_toNat_eq h')]

theorem ramRead_ramWrite (cfg : Config) (s : State) (addr v b : Word) :
    ramRead (ramWrite cfg s addr v) b = if b = addr then ramCell cfg v else ramRead s b := by
  simp only [ramRead, ramWrite_ram, Memory.read_write]
  by_cases h : b = addr
  · simp [h]
  · rw [if_neg h, if_neg fun h' => h (BitVec.eq_of_toNat_eq h')]

end Sys2Proof.Machine
end

