-- ==== Sys2Proof/Laws/Host.lean ====
section
/-! SUPPORT. What the host's operations can do, said once each. -/

namespace Sys2Proof.Machine

theorem construct_cases {cfg : Config} {external : Option (List Word)} {s : State}
    (h : construct cfg external = .next s) :
    (cfg.externalRam = false ∧ external = none ∧ s = resetState cfg [])
      ∨ ∃ cells, cfg.externalRam = true ∧ external = some cells ∧ cells.length = 65536
        ∧ s = resetState cfg (Memory.ofCells 0 (cells.map (ramCell cfg))) := by
  unfold construct at h
  split at h
  · next hc => exact .inl ⟨hc, rfl, (Host.Outcome.next.inj h).symm⟩
  · next cells hc =>
      split at h
      · next hl => exact .inr ⟨cells, hc, rfl, hl, (Host.Outcome.next.inj h).symm⟩
      · cases h
  · cases h

theorem construct_never_faults (cfg : Config) (external : Option (List Word)) (r : Fault) :
    construct cfg external ≠ .fault r := by
  intro h
  unfold construct at h
  repeat' split at h
  all_goals cases h

theorem load_cases {text : Text} {address : Nat} {h h' : Session} (hl : load text address h = .next h') :
    address < 65536 ∧ ∃ w t, encodeText text h.symbols = .ok (w, t)
      ∧ h' = { machine := romWrite h.machine (BitVec.ofNat 16 address) w, symbols := t } := by
  unfold load at hl
  split at hl
  · next ha =>
      split at hl
      · next w t he => exact ⟨ha, w, t, he, (Host.Outcome.next.inj hl).symm⟩
      · cases hl
  · cases hl

theorem allocateOrGet_known {t : SymbolTable} {name : Text} {addr : Nat} (h : t.map.lookup name = some addr) :
    allocateOrGet t name = (addr, t) := by
  simp only [allocateOrGet, h]

theorem allocateOrGet_new {t : SymbolTable} {name : Text} (h : t.map.lookup name = none) :
    allocateOrGet t name
      = (t.nextAllocation, { map := t.map ++ [(name, t.nextAllocation)], nextAllocation := t.nextAllocation + 1 }) := by
  simp only [allocateOrGet, h]

end Sys2Proof.Machine
end

