-- ==== Sys2Proof/Laws/PerInstr.lean ====
section
/-! SUPPORT. One lemma per constructor of Instr: the word of an instruction is one of the words its row of the opcode
table covers (spec/30_encoding.md R63). -/

namespace Sys2Proof.Laws

/-- The word of the instruction has the row's match value under the row's mask. -/
def RowWord.Statement (i : Instr) : Prop := i.row.covers (encode i) = true

theorem pack_tag (a : BitVec 1) (comp : BitVec 6) (dest jump : BitVec 3) :
    pack (.compute a comp dest jump) &&& 0x8000#16 = 0x8000#16 := by
  ext i hi
  simp only [pack]
  interval_cases i <;> simp

theorem pack_dest (a : BitVec 1) (comp : BitVec 6) (dest jump : BitVec 3) :
    pack (.compute a comp dest jump) &&& 0x8038#16 = 0x8000#16 ||| (dest.setWidth 16 <<< 3) := by
  ext i hi
  simp only [pack]
  interval_cases i <;> simp

theorem pack_jump (a : BitVec 1) (comp : BitVec 6) (dest jump : BitVec 3) :
    pack (.compute a comp dest jump) &&& 0x8007#16 = 0x8000#16 ||| jump.setWidth 16 := by
  ext i hi
  simp only [pack]
  interval_cases i <;> simp

theorem pack_code (a : BitVec 1) (comp : BitVec 6) (dest jump : BitVec 3) :
    pack (.compute a comp dest jump) &&& 0x9FC0#16
      = 0x8000#16 ||| (a.setWidth 16 <<< 12) ||| (comp.setWidth 16 <<< 6) := by
  ext i hi
  simp only [pack]
  interval_cases i <;> simp

theorem pack_address (operand : BitVec 15) : pack (.address operand) &&& 0x8000#16 = 0x0000#16 := by
  ext i hi
  simp only [pack]
  interval_cases i <;> simp

theorem RowWord.aInstr (operand : BitVec 15) :
    RowWord.Statement (.aInstr operand) := beq_iff_eq.mpr (pack_address operand)

theorem RowWord.cInstr (a : BitVec 1) (comp : BitVec 6) (dest jump : BitVec 3) :
    RowWord.Statement (.cInstr a comp dest jump) := beq_iff_eq.mpr (pack_tag a comp dest jump)

theorem RowWord.cDestNone (a : BitVec 1) (comp : BitVec 6) (jump : BitVec 3) :
    RowWord.Statement (.cDestNone a comp jump) := beq_iff_eq.mpr (pack_dest a comp _ jump)

theorem RowWord.cDestM (a : BitVec 1) (comp : BitVec 6) (jump : BitVec 3) :
    RowWord.Statement (.cDestM a comp jump) := beq_iff_eq.mpr (pack_dest a comp _ jump)

theorem RowWord.cDestD (a : BitVec 1) (comp : BitVec 6) (jump : BitVec 3) :
    RowWord.Statement (.cDestD a comp jump) := beq_iff_eq.mpr (pack_dest a comp _ jump)

theorem RowWord.cDestMD (a : BitVec 1) (comp : BitVec 6) (jump : BitVec 3) :
    RowWord.Statement (.cDestMD a comp jump) := beq_iff_eq.mpr (pack_dest a comp _ jump)

theorem RowWord.cDestA (a : BitVec 1) (comp : BitVec 6) (jump : BitVec 3) :
    RowWord.Statement (.cDestA a comp jump) := beq_iff_eq.mpr (pack_dest a comp _ jump)

theorem RowWord.cDestAM (a : BitVec 1) (comp : BitVec 6) (jump : BitVec 3) :
    RowWord.Statement (.cDestAM a comp jump) := beq_iff_eq.mpr (pack_dest a comp _ jump)

theorem RowWord.cDestAD (a : BitVec 1) (comp : BitVec 6) (jump : BitVec 3) :
    RowWord.Statement (.cDestAD a comp jump) := beq_iff_eq.mpr (pack_dest a comp _ jump)

theorem RowWord.cDestAMD (a : BitVec 1) (comp : BitVec 6) (jump : BitVec 3) :
    RowWord.Statement (.cDestAMD a comp jump) := beq_iff_eq.mpr (pack_dest a comp _ jump)

theorem RowWord.cJumpNone (a : BitVec 1) (comp : BitVec 6) (dest : BitVec 3) :
    RowWord.Statement (.cJumpNone a comp dest) := beq_iff_eq.mpr (pack_jump a comp dest _)

theorem RowWord.cJumpJGT (a : BitVec 1) (comp : BitVec 6) (dest : BitVec 3) :
    RowWord.Statement (.cJumpJGT a comp dest) := beq_iff_eq.mpr (pack_jump a comp dest _)

theorem RowWord.cJumpJEQ (a : BitVec 1) (comp : BitVec 6) (dest : BitVec 3) :
    RowWord.Statement (.cJumpJEQ a comp dest) := beq_iff_eq.mpr (pack_jump a comp dest _)

theorem RowWord.cJumpJGE (a : BitVec 1) (comp : BitVec 6) (dest : BitVec 3) :
    RowWord.Statement (.cJumpJGE a comp dest) := beq_iff_eq.mpr (pack_jump a comp dest _)

theorem RowWord.cJumpJLT (a : BitVec 1) (comp : BitVec 6) (dest : BitVec 3) :
    RowWord.Statement (.cJumpJLT a comp dest) := beq_iff_eq.mpr (pack_jump a comp dest _)

theorem RowWord.cJumpJNE (a : BitVec 1) (comp : BitVec 6) (dest : BitVec 3) :
    RowWord.Statement (.cJumpJNE a comp dest) := beq_iff_eq.mpr (pack_jump a comp dest _)

theorem RowWord.cJumpJLE (a : BitVec 1) (comp : BitVec 6) (dest : BitVec 3) :
    RowWord.Statement (.cJumpJLE a comp dest) := beq_iff_eq.mpr (pack_jump a comp dest _)

theorem RowWord.cJumpJMP (a : BitVec 1) (comp : BitVec 6) (dest : BitVec 3) :
    RowWord.Statement (.cJumpJMP a comp dest) := beq_iff_eq.mpr (pack_jump a comp dest _)

theorem RowWord.comp0 (dest jump : BitVec 3) :
    RowWord.Statement (.comp0 dest jump) := beq_iff_eq.mpr (pack_code _ _ dest jump)

theorem RowWord.comp1 (dest jump : BitVec 3) :
    RowWord.Statement (.comp1 dest jump) := beq_iff_eq.mpr (pack_code _ _ dest jump)

theorem RowWord.compNeg1 (dest jump : BitVec 3) :
    RowWord.Statement (.compNeg1 dest jump) := beq_iff_eq.mpr (pack_code _ _ dest jump)

theorem RowWord.compD (dest jump : BitVec 3) :
    RowWord.Statement (.compD dest jump) := beq_iff_eq.mpr (pack_code _ _ dest jump)

theorem RowWord.compA (dest jump : BitVec 3) :
    RowWord.Statement (.compA dest jump) := beq_iff_eq.mpr (pack_code _ _ dest jump)

theorem RowWord.compNotD (dest jump : BitVec 3) :
    RowWord.Statement (.compNotD dest jump) := beq_iff_eq.mpr (pack_code _ _ dest jump)

theorem RowWord.compNotA (dest jump : BitVec 3) :
    RowWord.Statement (.compNotA dest jump) := beq_iff_eq.mpr (pack_code _ _ dest jump)

theorem RowWord.compNegD (dest jump : BitVec 3) :
    RowWord.Statement (.compNegD dest jump) := beq_iff_eq.mpr (pack_code _ _ dest jump)

theorem RowWord.compNegA (dest jump : BitVec 3) :
    RowWord.Statement (.compNegA dest jump) := beq_iff_eq.mpr (pack_code _ _ dest jump)

theorem RowWord.compDPlus1 (dest jump : BitVec 3) :
    RowWord.Statement (.compDPlus1 dest jump) := beq_iff_eq.mpr (pack_code _ _ dest jump)

theorem RowWord.compAPlus1 (dest jump : BitVec 3) :
    RowWord.Statement (.compAPlus1 dest jump) := beq_iff_eq.mpr (pack_code _ _ dest jump)

theorem RowWord.compDMinus1 (dest jump : BitVec 3) :
    RowWord.Statement (.compDMinus1 dest jump) := beq_iff_eq.mpr (pack_code _ _ dest jump)

theorem RowWord.compAMinus1 (dest jump : BitVec 3) :
    RowWord.Statement (.compAMinus1 dest jump) := beq_iff_eq.mpr (pack_code _ _ dest jump)

theorem RowWord.compDPlusA (dest jump : BitVec 3) :
    RowWord.Statement (.compDPlusA dest jump) := beq_iff_eq.mpr (pack_code _ _ dest jump)

theorem RowWord.compDMinusA (dest jump : BitVec 3) :
    RowWord.Statement (.compDMinusA dest jump) := beq_iff_eq.mpr (pack_code _ _ dest jump)

theorem RowWord.compAMinusD (dest jump : BitVec 3) :
    RowWord.Statement (.compAMinusD dest jump) := beq_iff_eq.mpr (pack_code _ _ dest jump)

theorem RowWord.compDAndA (dest jump : BitVec 3) :
    RowWord.Statement (.compDAndA dest jump) := beq_iff_eq.mpr (pack_code _ _ dest jump)

theorem RowWord.compDOrA (dest jump : BitVec 3) :
    RowWord.Statement (.compDOrA dest jump) := beq_iff_eq.mpr (pack_code _ _ dest jump)

theorem RowWord.compM (dest jump : BitVec 3) :
    RowWord.Statement (.compM dest jump) := beq_iff_eq.mpr (pack_code _ _ dest jump)

theorem RowWord.compNotM (dest jump : BitVec 3) :
    RowWord.Statement (.compNotM dest jump) := beq_iff_eq.mpr (pack_code _ _ dest jump)

theorem RowWord.compNegM (dest jump : BitVec 3) :
    RowWord.Statement (.compNegM dest jump) := beq_iff_eq.mpr (pack_code _ _ dest jump)

theorem RowWord.compMPlus1 (dest jump : BitVec 3) :
    RowWord.Statement (.compMPlus1 dest jump) := beq_iff_eq.mpr (pack_code _ _ dest jump)

theorem RowWord.compMMinus1 (dest jump : BitVec 3) :
    RowWord.Statement (.compMMinus1 dest jump) := beq_iff_eq.mpr (pack_code _ _ dest jump)

theorem RowWord.compDPlusM (dest jump : BitVec 3) :
    RowWord.Statement (.compDPlusM dest jump) := beq_iff_eq.mpr (pack_code _ _ dest jump)

theorem RowWord.compDMinusM (dest jump : BitVec 3) :
    RowWord.Statement (.compDMinusM dest jump) := beq_iff_eq.mpr (pack_code _ _ dest jump)

theorem RowWord.compMMinusD (dest jump : BitVec 3) :
    RowWord.Statement (.compMMinusD dest jump) := beq_iff_eq.mpr (pack_code _ _ dest jump)

theorem RowWord.compDAndM (dest jump : BitVec 3) :
    RowWord.Statement (.compDAndM dest jump) := beq_iff_eq.mpr (pack_code _ _ dest jump)

theorem RowWord.compDOrM (dest jump : BitVec 3) :
    RowWord.Statement (.compDOrM dest jump) := beq_iff_eq.mpr (pack_code _ _ dest jump)

end Sys2Proof.Laws
end

