-- ==== Sys2Proof/Laws/Step.lean ====
section
/-! SUPPORT. What each shared operation of a step can do, said once. -/

namespace Sys2Proof.Machine

/-- Everything the address-instruction does. -/
theorem addressStep_eq (operand : BitVec 15) (s : State) :
    addressStep operand s = { s with a := operand.setWidth 16, pc := s.pc + 1 } := rfl

/-- Everything the destination writes do (R108). -/
theorem writeDests_eq (cfg : Config) (dest : BitVec 3) (value : Word) (s : State) :
    writeDests cfg dest value s =
      { s with
        a := if destA dest then value else s.a
        d := if destD dest then value else s.d
        ram :=
          if destM dest then
            s.ram.write (if destA dest then value else s.a).toNat (ramCell cfg value)
          else s.ram } := by
  unfold writeDests
  cases destA dest <;> cases destD dest <;> cases destM dest <;> rfl

/-- Everything the compute-instruction does (R123). -/
theorem computeStep_eq (cfg : Config) (a : BitVec 1) (comp : BitVec 6) (dest jump : BitVec 3) (s : State) :
    computeStep cfg a comp dest jump s =
      { s with
        a := if destA dest then computeValue cfg comp dest s else s.a
        d := if destD dest then computeValue cfg comp dest s else s.d
        pc :=
          if taken cfg.jumpSigned jump (computeValue cfg comp dest s) then
            (if destA dest then computeValue cfg comp dest s else s.a)
          else s.pc + 1
        ram :=
          if destM dest then
            s.ram.write (if destA dest then computeValue cfg comp dest s else s.a).toNat
              (ramCell cfg (computeValue cfg comp dest s))
          else s.ram } := by
  simp only [computeStep, updatePc, writeDests_eq]
  rfl

/-- The register A after a compute-instruction. -/
theorem computeStep_a (cfg : Config) (a : BitVec 1) (comp : BitVec 6) (dest jump : BitVec 3) (s : State) :
    (computeStep cfg a comp dest jump s).a = if destA dest then computeValue cfg comp dest s else s.a := by
  rw [computeStep_eq]

/-- What a RAM cell holds after a compute-instruction: the cell at the new A receives the value when destination M is
set, and nothing else changes (R107). -/
theorem ramRead_computeStep (cfg : Config) (a : BitVec 1) (comp : BitVec 6) (dest jump : BitVec 3) (s : State)
    (addr : Word) :
    ramRead (computeStep cfg a comp dest jump s) addr =
      if destM dest = true ∧ addr = (computeStep cfg a comp dest jump s).a then
        ramCell cfg (computeValue cfg comp dest s)
      else ramRead s addr := by
  rw [computeStep_a, computeStep_eq]
  by_cases hm : destM dest = true
  · rw [if_pos hm]
    simp only [ramRead, hm, true_and, Memory.read_write]
    by_cases h : addr = if destA dest then computeValue cfg comp dest s else s.a
    · rw [if_pos (by rw [h]), if_pos h]
    · rw [if_neg fun h' => h (BitVec.eq_of_toNat_eq h'), if_neg h]
  · simp only [hm, false_and, if_false, Bool.false_eq_true]
    rfl

/-- Every meaning is the transition on the record its constructor stands for. -/
theorem exec_eq_stepRecord (i : Instr) (s : State) : exec i s = .next (stepRecord Config.default i.record s) := by
  cases i <;> rfl

/-- A step is the meaning of the decoded word. -/
theorem step_eq_exec (s : State) : step s = exec (decode (romRead s s.pc)) s := rfl

end Sys2Proof.Machine
end

