-- ==== Sys2Proof/Tests/Slice0.lean ====
section
/-! SUPPORT. Tests: the spec's worked examples and vectors (spec/40_decoder.md section 4, spec/95_test_vectors.md), an
ill-formed term for each check of `Instr.wellFormed`, and a witness for each statement that has hypotheses. -/

namespace Sys2Proof.Tests

open Sys2Proof.Machine

/-- A state with the given registers and RAM and an empty ROM. -/
def st (a d pc : Word) (ram : Memory) : State := { a := a, d := d, pc := pc, rom := [], ram := ram }

/-- A, D, PC and RAM after one step of a state whose ROM[PC] holds the word `w`. -/
def after (s : State) (w : Nat) : Option (Word × Word × Word × Memory) :=
  match step (s.withFetchWord 16 w) with
  | .next t => some (t.a, t.d, t.pc, t.ram)
  | _ => none

/-- The registers A, D, PC after one instruction. -/
def regs (i : Instr) (s : State) : Option (Word × Word × Word) :=
  match exec i s with
  | .next t => some (t.a, t.d, t.pc)
  | _ => none

/-- The session that begins with a machine and a fresh symbol table. -/
def session (s : State) : Session := { machine := s, symbols := SymbolTable.fresh }

/-- The machine of the default configuration with an external RAM. -/
def sharedRam : Config := { Config.default with externalRam := true }

/-! ## Well-formedness: each check refuses an ill-formed term -/

theorem test_wellFormed_cInstr : (Instr.cInstr 0 12 0 1).wellFormed = false ∧ (Instr.cInstr 0 12 1 0).wellFormed = false := by
  decide

theorem test_wellFormed_cDestNone :
    (Instr.cDestNone 0 1 1).wellFormed = false ∧ (Instr.cDestNone 1 1 0).wellFormed = false
      ∧ (Instr.cDestNone 0 12 0).wellFormed = false := by
  decide

theorem test_wellFormed_cJumpNone :
    (Instr.cJumpNone 1 1 1).wellFormed = false ∧ (Instr.cJumpNone 0 1 0).wellFormed = false
      ∧ (Instr.cJumpNone 1 48 0).wellFormed = false := by
  decide

theorem test_wellFormed_dest_rows :
    [Instr.cDestM 0 12 1, Instr.cDestD 0 12 1, Instr.cDestMD 0 12 1, Instr.cDestA 0 12 1, Instr.cDestAM 0 12 1, Instr.cDestAD 0 12 1, Instr.cDestAMD 0 12 1].all
      (fun i => !i.wellFormed) = true := by
  decide

theorem test_wellFormed_jump_rows :
    [Instr.cJumpJGT 0 12 1, Instr.cJumpJEQ 0 12 1, Instr.cJumpJGE 0 12 1, Instr.cJumpJLT 0 12 1, Instr.cJumpJNE 0 12 1, Instr.cJumpJLE 0 12 1, Instr.cJumpJMP 0 12 1].all
      (fun i => !i.wellFormed) = true := by
  decide

theorem test_wellFormed_comp_rows_dest :
    [Instr.comp0 1 0, Instr.comp1 1 0, Instr.compNeg1 1 0, Instr.compD 1 0, Instr.compA 1 0, Instr.compNotD 1 0,
      Instr.compNotA 1 0, Instr.compNegD 1 0, Instr.compNegA 1 0, Instr.compDPlus1 1 0, Instr.compAPlus1 1 0, Instr.compDMinus1 1 0,
      Instr.compAMinus1 1 0, Instr.compDPlusA 1 0, Instr.compDMinusA 1 0, Instr.compAMinusD 1 0, Instr.compDAndA 1 0, Instr.compDOrA 1 0,
      Instr.compM 1 0, Instr.compNotM 1 0, Instr.compNegM 1 0, Instr.compMPlus1 1 0, Instr.compMMinus1 1 0, Instr.compDPlusM 1 0,
      Instr.compDMinusM 1 0, Instr.compMMinusD 1 0, Instr.compDAndM 1 0, Instr.compDOrM 1 0].all
      (fun i => !i.wellFormed) = true := by
  decide

theorem test_wellFormed_comp_rows_jump :
    [Instr.comp0 0 1, Instr.comp1 0 1, Instr.compNeg1 0 1, Instr.compD 0 1, Instr.compA 0 1, Instr.compNotD 0 1,
      Instr.compNotA 0 1, Instr.compNegD 0 1, Instr.compNegA 0 1, Instr.compDPlus1 0 1, Instr.compAPlus1 0 1, Instr.compDMinus1 0 1,
      Instr.compAMinus1 0 1, Instr.compDPlusA 0 1, Instr.compDMinusA 0 1, Instr.compAMinusD 0 1, Instr.compDAndA 0 1, Instr.compDOrA 0 1,
      Instr.compM 0 1, Instr.compNotM 0 1, Instr.compNegM 0 1, Instr.compMPlus1 0 1, Instr.compMMinus1 0 1, Instr.compDPlusM 0 1,
      Instr.compDMinusM 0 1, Instr.compMMinusD 0 1, Instr.compDAndM 0 1, Instr.compDOrM 0 1].all
      (fun i => !i.wellFormed) = true := by
  decide

/-! ## Decode: a word written out from the spec's encoding, for every constructor -/

/-- spec/30_encoding.md R51: tag 0, operand. -/
theorem test_decode_aInstr : decode 0b0_100000000000000 = .aInstr 16384 := by decide

/-- spec/30_encoding.md R52: tag, unread, a, comp, dest, jump. -/
theorem test_decode_cInstr : decode 0b1_11_1_010101_111_101 = .cInstr 1 0b010101 0b111 0b101 := by decide

/-- R54: the same record with bits 14..13 = 00. -/
theorem test_decode_cInstr_unread_bits : decode 0b1_00_1_010101_111_101 = .cInstr 1 0b010101 0b111 0b101 := by decide

/-- spec/30_encoding.md R59, with comp = 001100 and no jump. -/
theorem test_decode_dest_rows :
    decode 0b1_11_0_000001_000_000 = .cDestNone 0 1 0
      ∧ decode 0b1_11_0_001100_001_000 = .cDestM 0 12 0
      ∧ decode 0b1_11_0_001100_010_000 = .cDestD 0 12 0
      ∧ decode 0b1_11_0_001100_011_000 = .cDestMD 0 12 0
      ∧ decode 0b1_11_0_001100_100_000 = .cDestA 0 12 0
      ∧ decode 0b1_11_0_001100_101_000 = .cDestAM 0 12 0
      ∧ decode 0b1_11_0_001100_110_000 = .cDestAD 0 12 0
      ∧ decode 0b1_11_0_001100_111_000 = .cDestAMD 0 12 0 := by
  decide

/-- spec/30_encoding.md R60, with comp = 001100 and no destination. -/
theorem test_decode_jump_rows :
    decode 0b1_11_1_000001_000_000 = .cJumpNone 1 1 0
      ∧ decode 0b1_11_0_001100_000_001 = .cJumpJGT 0 12 0
      ∧ decode 0b1_11_0_001100_000_010 = .cJumpJEQ 0 12 0
      ∧ decode 0b1_11_0_001100_000_011 = .cJumpJGE 0 12 0
      ∧ decode 0b1_11_0_001100_000_100 = .cJumpJLT 0 12 0
      ∧ decode 0b1_11_0_001100_000_101 = .cJumpJNE 0 12 0
      ∧ decode 0b1_11_0_001100_000_110 = .cJumpJLE 0 12 0
      ∧ decode 0b1_11_0_001100_000_111 = .cJumpJMP 0 12 0 := by
  decide

/-- spec/44_assembler_and_load.md R140, columns a and comp. -/
theorem test_decode_comp_rows :
    decode 0b1_11_0_101010_000_000 = .comp0 0 0
      ∧ decode 0b1_11_0_111111_000_000 = .comp1 0 0
      ∧ decode 0b1_11_0_111010_000_000 = .compNeg1 0 0
      ∧ decode 0b1_11_0_001100_000_000 = .compD 0 0
      ∧ decode 0b1_11_0_110000_000_000 = .compA 0 0
      ∧ decode 0b1_11_0_001101_000_000 = .compNotD 0 0
      ∧ decode 0b1_11_0_110001_000_000 = .compNotA 0 0
      ∧ decode 0b1_11_0_001111_000_000 = .compNegD 0 0
      ∧ decode 0b1_11_0_110011_000_000 = .compNegA 0 0
      ∧ decode 0b1_11_0_011111_000_000 = .compDPlus1 0 0
      ∧ decode 0b1_11_0_110111_000_000 = .compAPlus1 0 0
      ∧ decode 0b1_11_0_001110_000_000 = .compDMinus1 0 0
      ∧ decode 0b1_11_0_110010_000_000 = .compAMinus1 0 0
      ∧ decode 0b1_11_0_000010_000_000 = .compDPlusA 0 0
      ∧ decode 0b1_11_0_010011_000_000 = .compDMinusA 0 0
      ∧ decode 0b1_11_0_000111_000_000 = .compAMinusD 0 0
      ∧ decode 0b1_11_0_000000_000_000 = .compDAndA 0 0
      ∧ decode 0b1_11_0_010101_000_000 = .compDOrA 0 0
      ∧ decode 0b1_11_1_110000_000_000 = .compM 0 0
      ∧ decode 0b1_11_1_110001_000_000 = .compNotM 0 0
      ∧ decode 0b1_11_1_110011_000_000 = .compNegM 0 0
      ∧ decode 0b1_11_1_110111_000_000 = .compMPlus1 0 0
      ∧ decode 0b1_11_1_110010_000_000 = .compMMinus1 0 0
      ∧ decode 0b1_11_1_000010_000_000 = .compDPlusM 0 0
      ∧ decode 0b1_11_1_010011_000_000 = .compDMinusM 0 0
      ∧ decode 0b1_11_1_000111_000_000 = .compMMinusD 0 0
      ∧ decode 0b1_11_1_000000_000_000 = .compDAndM 0 0
      ∧ decode 0b1_11_1_010101_000_000 = .compDOrM 0 0 := by
  decide

/-- spec/40_decoder.md section 4, spec/95_test_vectors.md section 2: records. -/
theorem test_decode_records :
    decodeRecord 0x7FFF = .address 32767 ∧ decodeRecord 0x8000 = .compute 0 0 0 0
      ∧ decodeRecord 0x8001 = .compute 0 0 0 1 ∧ decodeRecord 0x8008 = .compute 0 0 1 0
      ∧ decodeRecord 0x8040 = .compute 0 1 0 0 ∧ decodeRecord 0x9000 = .compute 1 0 0 0
      ∧ decodeRecord 0xA000 = .compute 0 0 0 0 ∧ decodeRecord 0xC000 = .compute 0 0 0 0
      ∧ decodeRecord 0xEC10 = .compute 0 48 2 0 ∧ decodeRecord 0xF57D = .compute 1 21 7 5
      ∧ decodeRecord 0xFFFF = .compute 1 63 7 7 := by
  decide

/-- spec/95_test_vectors.md section 2: the round trip of 0x8308 and 0xE308. -/
theorem test_pack_decode : pack (decodeRecord 0x8308) = 0xE308 ∧ pack (decodeRecord 0xE308) = 0xE308 := by decide

/-- spec/95_test_vectors.md section 3. -/
theorem test_alu_vectors :
    alu 5 3 ⟨false, false, false, false, true, false⟩ = 1 ∧ alu 0 0 ⟨true, false, true, false, true, true⟩ = 0xFFFF
      ∧ alu 5 3 ⟨false, false, false, false, false, true⟩ = 0xFFF8
      ∧ alu 0xFFFF 1 ⟨true, true, false, false, true, false⟩ = 1
      ∧ alu 0xFFFF 1 ⟨true, true, false, false, false, false⟩ = 0xFFFF
      ∧ alu 0x1234 0x00FF ⟨false, true, false, false, true, false⟩ = 0x00CB
      ∧ alu 0x1234 0x00FF ⟨true, true, true, true, true, true⟩ = 0 := by
  decide

/-! ## Steps: the vectors of spec/95_test_vectors.md sections 4 and 5 -/

theorem test_step_aInstr : after (st 0x1234 7 10 []) 0x0005 = some (5, 7, 11, []) := by decide

theorem test_step_aInstr_wraps : after (st 0 0 65535 []) 0x0001 = some (1, 0, 0, []) := by decide

theorem test_step_cDestD : after (st 0x0FF0 0x00F0 20 []) 0xE090 = some (0x0FF0, 0x0F00, 21, []) := by decide

theorem test_step_compDAndA : after (st 5 0x0F0F 10 []) 0xE000 = some (5, 0x0F0F, 11, []) := by decide

theorem test_step_cJumpJMP : after (st 5 0x0F0F 10 []) 0xE007 = some (5, 0x0F0F, 5, []) := by decide

theorem test_step_cDestM :
    after (st 3 0x00AA 65535 [(3, 0x7777)]) 0xE308 = some (3, 0x00AA, 0, [(3, 0xFFFF)]) := by decide

theorem test_step_cDestM_unread_bits :
    after (st 3 0x00AA 10 [(3, 0x7777)]) 0xF308 = some (3, 0x00AA, 11, [(3, 0xFFFF)])
      ∧ after (st 3 0x00AA 10 [(3, 0x7777)]) 0x8308 = some (3, 0x00AA, 11, [(3, 0xFFFF)])
      ∧ after (st 3 0x00AA 10 [(3, 0x7777)]) 0xFF08 = some (3, 0x00AA, 11, [(3, 0xFFFF)]) := by
  and_intros <;> decide

/-- Vector 0xE078: the write goes to the new A. -/
theorem test_step_cDestAMD :
    after (st 0x0010 0x1234 10 [(16, 0xAAAA)]) 0xE078 = some (0, 0, 11, [(16, 0xAAAA)]) := by decide

/-- Vector 0xE0EF: write and jump use the new A. -/
theorem test_step_cInstr :
    after (st 0x0010 0x1234 10 [(16, 0xAAAA)]) 0xE0EF
      = some (0xFFFF, 0x1234, 65535, [(16, 0xAAAA), (65535, 0xFFFF)]) := by decide

/-- Vector 0xE072: JEQ on value 0 jumps to the new A. -/
theorem test_step_cInstr_jumps_to_new_a :
    after (st 0x0010 0x1234 10 []) 0xE072 = some (0, 0, 0, []) := by decide

/-- Vectors 0xE024 and 0xE021: destination A with a jump, so row C. -/
theorem test_step_signed_jumps :
    after (st 0x8000 0 10 []) 0xE024 = some (0x8000, 0, 32768, [])
      ∧ after (st 0x7FFF 0 10 []) 0xE021 = some (0x7FFF, 0, 32767, []) := by
  and_intros <;> decide

/-- spec/95_test_vectors.md section 6: the jump decision for 0, 1, 0x7FFF, 0x8000 and 0xFFFF, codes 0 to 7. -/
theorem test_jump_vectors :
    [0, 1, 2, 3, 4, 5, 6, 7].map (fun j => taken true j 0) = [false, false, true, true, false, false, true, true]
      ∧ [0, 1, 2, 3, 4, 5, 6, 7].map (fun j => taken true j 1) = [false, true, false, true, false, true, false, true]
      ∧ [0, 1, 2, 3, 4, 5, 6, 7].map (fun j => taken true j 0x7FFF)
        = [false, true, false, true, false, true, false, true]
      ∧ [0, 1, 2, 3, 4, 5, 6, 7].map (fun j => taken true j 0x8000)
        = [false, false, false, false, true, true, true, true]
      ∧ [0, 1, 2, 3, 4, 5, 6, 7].map (fun j => taken true j 0xFFFF)
        = [false, false, false, false, true, true, true, true]
      ∧ [0, 1, 2, 3, 4, 5, 6, 7].map (fun j => taken false j 0x8000)
        = [false, true, false, true, false, true, false, true] := by
  decide

/-- spec/43_c_instruction.md R108 and the last column of R125 with comp[2:0] = 010: D = 0x00F0, A = 0x0FF0. -/
theorem test_dest_rows :
    regs (.cDestNone 0 2 0) (st 0x0FF0 0x00F0 20 []) = some (0x0FF0, 0x00F0, 21)
      ∧ regs (.cDestM 0 2 0) (st 0x0FF0 0x00F0 20 []) = some (0x0FF0, 0x00F0, 21)
      ∧ regs (.cDestD 0 2 0) (st 0x0FF0 0x00F0 20 []) = some (0x0FF0, 0x0F00, 21)
      ∧ regs (.cDestMD 0 2 0) (st 0x0FF0 0x00F0 20 []) = some (0x0FF0, 0x0000, 21)
      ∧ regs (.cDestA 0 2 0) (st 0x0FF0 0x00F0 20 []) = some (0x0000, 0x00F0, 21)
      ∧ regs (.cDestAM 0 2 0) (st 0x0FF0 0x00F0 20 []) = some (0x0000, 0x00F0, 21)
      ∧ regs (.cDestAD 0 2 0) (st 0x0FF0 0x00F0 20 []) = some (0x0FF0, 0x0FF0, 21)
      ∧ regs (.cDestAMD 0 2 0) (st 0x0FF0 0x00F0 20 []) = some (0x0000, 0x0000, 21) := by
  decide

/-- spec/43_c_instruction.md R111 to R118 on the value NOT16(D OR A) = 0xF00F (R125, row 000/001), which is negative. -/
theorem test_jump_rows :
    regs (.cJumpNone 0 1 0) (st 0x0FF0 0x00F0 20 []) = some (0x0FF0, 0x00F0, 21)
      ∧ regs (.cJumpJGT 0 1 0) (st 0x0FF0 0x00F0 20 []) = some (0x0FF0, 0x00F0, 21)
      ∧ regs (.cJumpJEQ 0 1 0) (st 0x0FF0 0x00F0 20 []) = some (0x0FF0, 0x00F0, 21)
      ∧ regs (.cJumpJGE 0 1 0) (st 0x0FF0 0x00F0 20 []) = some (0x0FF0, 0x00F0, 21)
      ∧ regs (.cJumpJLT 0 1 0) (st 0x0FF0 0x00F0 20 []) = some (0x0FF0, 0x00F0, 0x0FF0)
      ∧ regs (.cJumpJNE 0 1 0) (st 0x0FF0 0x00F0 20 []) = some (0x0FF0, 0x00F0, 0x0FF0)
      ∧ regs (.cJumpJLE 0 1 0) (st 0x0FF0 0x00F0 20 []) = some (0x0FF0, 0x00F0, 0x0FF0)
      ∧ regs (.cJumpJMP 0 1 0) (st 0x0FF0 0x00F0 20 []) = some (0x0FF0, 0x00F0, 0x0FF0) := by
  decide

/-- R140 (column comp[2:0]) with the last column of R125 for destination D: D = 0x00F0, A = 0x0FF0. -/
theorem test_comp_rows :
    regs (.comp0 2 0) (st 0x0FF0 0x00F0 20 []) = some (0x0FF0, 0x0F00, 21)
      ∧ regs (.comp1 2 0) (st 0x0FF0 0x00F0 20 []) = some (0x0FF0, 0x0FF0, 21)
      ∧ regs (.compNeg1 2 0) (st 0x0FF0 0x00F0 20 []) = some (0x0FF0, 0x0F00, 21)
      ∧ regs (.compD 2 0) (st 0x0FF0 0x00F0 20 []) = some (0x0FF0, 0xFF0F, 21)
      ∧ regs (.compA 2 0) (st 0x0FF0 0x00F0 20 []) = some (0x0FF0, 0xFFFF, 21)
      ∧ regs (.compNotD 2 0) (st 0x0FF0 0x00F0 20 []) = some (0x0FF0, 0x00F0, 21)
      ∧ regs (.compNotA 2 0) (st 0x0FF0 0x00F0 20 []) = some (0x0FF0, 0x0000, 21)
      ∧ regs (.compNegD 2 0) (st 0x0FF0 0x00F0 20 []) = some (0x0FF0, 0x0FF0, 21)
      ∧ regs (.compNegA 2 0) (st 0x0FF0 0x00F0 20 []) = some (0x0FF0, 0xF0FF, 21)
      ∧ regs (.compDPlus1 2 0) (st 0x0FF0 0x00F0 20 []) = some (0x0FF0, 0x0FF0, 21)
      ∧ regs (.compAPlus1 2 0) (st 0x0FF0 0x00F0 20 []) = some (0x0FF0, 0x0FF0, 21)
      ∧ regs (.compDMinus1 2 0) (st 0x0FF0 0x00F0 20 []) = some (0x0FF0, 0xF00F, 21)
      ∧ regs (.compAMinus1 2 0) (st 0x0FF0 0x00F0 20 []) = some (0x0FF0, 0x0F00, 21)
      ∧ regs (.compDPlusA 2 0) (st 0x0FF0 0x00F0 20 []) = some (0x0FF0, 0x0F00, 21)
      ∧ regs (.compDMinusA 2 0) (st 0x0FF0 0x00F0 20 []) = some (0x0FF0, 0xF0FF, 21)
      ∧ regs (.compAMinusD 2 0) (st 0x0FF0 0x00F0 20 []) = some (0x0FF0, 0x0FF0, 21)
      ∧ regs (.compDAndA 2 0) (st 0x0FF0 0x00F0 20 []) = some (0x0FF0, 0xFFFF, 21)
      ∧ regs (.compDOrA 2 0) (st 0x0FF0 0x00F0 20 []) = some (0x0FF0, 0x00F0, 21)
      ∧ regs (.compM 2 0) (st 0x0FF0 0x00F0 20 []) = some (0x0FF0, 0xFFFF, 21)
      ∧ regs (.compNotM 2 0) (st 0x0FF0 0x00F0 20 []) = some (0x0FF0, 0x0000, 21)
      ∧ regs (.compNegM 2 0) (st 0x0FF0 0x00F0 20 []) = some (0x0FF0, 0xF0FF, 21)
      ∧ regs (.compMPlus1 2 0) (st 0x0FF0 0x00F0 20 []) = some (0x0FF0, 0x0FF0, 21)
      ∧ regs (.compMMinus1 2 0) (st 0x0FF0 0x00F0 20 []) = some (0x0FF0, 0x0F00, 21)
      ∧ regs (.compDPlusM 2 0) (st 0x0FF0 0x00F0 20 []) = some (0x0FF0, 0x0F00, 21)
      ∧ regs (.compDMinusM 2 0) (st 0x0FF0 0x00F0 20 []) = some (0x0FF0, 0xF0FF, 21)
      ∧ regs (.compMMinusD 2 0) (st 0x0FF0 0x00F0 20 []) = some (0x0FF0, 0x0FF0, 21)
      ∧ regs (.compDAndM 2 0) (st 0x0FF0 0x00F0 20 []) = some (0x0FF0, 0xFFFF, 21)
      ∧ regs (.compDOrM 2 0) (st 0x0FF0 0x00F0 20 []) = some (0x0FF0, 0x00F0, 21) := by
  and_intros <;> decide

/-! ## The host's text (spec/95_test_vectors.md section 7) -/

/-- The word of a text with a fresh symbol table. -/
def word (t : Text) : Except HostError Word :=
  match encodeText t SymbolTable.fresh with
  | .ok (w, _) => .ok w
  | .error e => .error e

theorem test_encode_address :
    word ['@', '5'] = .ok 5 ∧ word ['@', '0', '0', '7'] = .ok 7 ∧ word ['@', '3', '2', '7', '6', '7'] = .ok 0x7FFF
      ∧ word ['@', 'S', 'P'] = .ok 0 ∧ word ['@', 'S', 'C', 'R', 'E', 'E', 'N'] = .ok 0x4000
      ∧ word ['@', 'K', 'B', 'D'] = .ok 0x6000 ∧ word ['@', 'f', 'o', 'o'] = .ok 16 := by
  decide

theorem test_encode_address_errors :
    word ['@', '3', '2', '7', '6', '8'] = .error .rangeError ∧ word ['@', 'R', '5'] = .error .syntaxError
      ∧ word ['@'] = .error .syntaxError ∧ word ['@', '-', '1'] = .error .syntaxError := by
  decide

theorem test_encode_compute :
    word ['D', '=', 'A'] = .ok 0xEC10 ∧ word ['M', '=', 'D'] = .ok 0xE308 ∧ word ['D', '=', 'M'] = .ok 0xFC10
      ∧ word ['0', ';', 'J', 'M', 'P'] = .ok 0xEA87 ∧ word ['D', ';', 'J', 'G', 'T'] = .ok 0xE301
      ∧ word ['D', '=', 'D', '+', '1'] = .ok 0xE7D0 ∧ word ['D', 'M', '=', 'D', '+', '1'] = .ok 0xE7D8
      ∧ word ['A', 'M', 'D', '=', 'D', '|', 'M', ';', 'J', 'N', 'E'] = .ok 0xF57D := by
  decide

theorem test_encode_compute_errors :
    word ['D', '=', 'D', '+', 'Q'] = .error .syntaxError ∧ word ['A', 'D', '=', '1', ';', 'J', 'X', 'X'] = .error .syntaxError
      ∧ word ['X', '=', '1'] = .error .syntaxError ∧ word ['D', '=', 'A', '+', 'D'] = .error .syntaxError
      ∧ word ['D', '=', '1', ';'] = .error .syntaxError := by
  decide

/-- `@foo` then `@bar` then `@foo`, fresh table: 16, 17, 16. -/
theorem test_allocate :
    let t1 := (allocateOrGet SymbolTable.fresh ['f', 'o', 'o']).2
    let t2 := (allocateOrGet t1 ['b', 'a', 'r']).2
    (allocateOrGet t1 ['b', 'a', 'r']).1 = 17 ∧ (allocateOrGet t2 ['f', 'o', 'o']).1 = 16 := by
  decide

/-! ## What the host asks of the decoder -/

theorem test_decodeTableWord :
    decodeTableWord 16 0x8308 = some (.cDestM 0 12 0) ∧ decodeTableWord 16 65536 = none := by
  decide

/-! ## Witnesses: states and operands that meet the hypotheses of the statements -/

theorem witness_DecodeReadsTheFields :
    (0x7FFF#16).toNat < 32768 ∧ 32768 ≤ (0x8000#16).toNat ∧ decodeRecord 0x7FFF = .address 32767
      ∧ decodeRecord 0x8000 = .compute 0 0 0 0 := by
  decide

theorem witness_DecodeDropsBitsFourteenThirteen : (0x8308#16).getLsbD 15 = true := by decide

theorem witness_PackAndDecodeAreInverse :
    (0x7FFF#16).getLsbD 15 = false ∧ (0xE000#16).extractLsb' 13 3 = 0b111#3 ∧ (0x8000#16).getLsbD 15 = true := by
  decide

theorem witness_DecodeOfEncodeIsIdentity :
    (Instr.aInstr 32767).wellFormed = true ∧ (Instr.cInstr 1 63 7 7).wellFormed = true
      ∧ (Instr.cDestAMD 1 63 0).wellFormed = true ∧ (Instr.cJumpJMP 1 63 0).wellFormed = true
      ∧ (Instr.compDOrM 0 0).wellFormed = true ∧ (Instr.cDestNone 0 1 0).wellFormed = true
      ∧ (Instr.cJumpNone 1 1 0).wellFormed = true := by
  decide

theorem witness_OpcodeRowsCoverWords : (0xFFFF#16).getLsbD 15 = true := by decide

theorem witness_SoftwareFormsRejectWideNumbers :
    decodeSoftware 65536 = .error .rangeError ∧ decodeSoftware 65535 = .ok (.compute 1 63 7 7)
      ∧ aluSoftware 65536 0 ⟨false, false, false, false, true, false⟩ = .error .rangeError
      ∧ aluSoftware 0 65536 ⟨false, false, false, false, true, false⟩ = .error .rangeError := by
  decide

theorem witness_AluIsBitSliced :
    (alu 0x8000 0 ⟨false, false, false, false, false, false⟩).getLsbD 15 = true ∧ 15 < 16 := by
  decide

theorem witness_StepRunsDecodedInstruction :
    decode (romRead State.reset State.reset.pc) = .aInstr 0 ∧ (Instr.aInstr 0).wellFormed = true := by
  decide

/-- The inputs of a clock edge. -/
def edge (rst stepEn romWe : Bool) : ClockInputs :=
  { rst := rst, stepEn := stepEn, romWe := romWe, romWaddr := 65535, romWdata := 0xEA87 }

theorem witness_StepIsTheConfiguredTransition :
    (edge false true false).rst = false ∧ (edge false true false).stepEn = true
      ∧ (edge false true false).romWe = false := by
  decide

theorem witness_BehaviourDependsOnNineBits :
    (0x8108#16).getLsbD 15 = true ∧ (0xFF08#16).getLsbD 15 = true
      ∧ (0x8108#16).extractLsb' 0 9 = (0xFF08#16).extractLsb' 0 9 := by
  decide

theorem witness_MemorySelectFlagIsUnread :
    (0xE310#16).getLsbD 15 = true ∧ (0xE310#16 ^^^ 0x1000#16 : Word) = 0xF310#16
      ∧ decodeRecord 0xE310 = .compute 0 12 2 0 ∧ decodeRecord 0xF310 = .compute 1 12 2 0
      ∧ (2#3).getLsbD 1 = true ∧ (2#3).getLsbD 0 = false ∧ (3#3).getLsbD 1 = true ∧ (3#3).getLsbD 0 = true := by
  decide

theorem witness_ComputeFrame :
    (Instr.compD 5 7).record = .compute 0 12 5 7
      ∧ exec (.compD 5 7) (st 3 0x00AA 10 []) = .next (computeStep Config.default 0 12 5 7 (st 3 0x00AA 10 []))
      ∧ (0#3).getLsbD 2 = false ∧ (0#3).getLsbD 1 = false ∧ (0#3).getLsbD 0 = false := by
  exact ⟨rfl, rfl, rfl, rfl, rfl⟩

theorem witness_RamIsReadOnlyForDestM :
    (6#3).getLsbD 0 = false ∧ SameButRam (st 1 2 3 []) (st 1 2 3 [(1, 0xBEEF)]) := by
  exact ⟨rfl, rfl, rfl, rfl, rfl⟩

/-- PC + 1 for `D` and no jump, the new A for `JMP`, at PC = 65535. -/
theorem witness_PcMovesByOneOrToA :
    regs (.cDestD 0 12 0) (st 9 0 65535 []) = some (9, 0xFFFF, 0) ∧ regs (.cJumpJMP 0 42 0) (st 9 0 65535 []) = some (9, 0, 9) := by
  decide

theorem witness_OnlyDestDWritesD :
    regs (.cDestD 0 2 0) (st 5 0 1 []) = some (5, 5, 2) ∧ (5 : Word) ≠ 0
      ∧ regs (.aInstr 5) (st 0 7 1 []) = some (5, 7, 2) := by
  decide

theorem witness_FixedPointOfAJumpToItself :
    let s : State := { st 12 8 12 [] with rom := [(12, 0xEA87)] }
    decodeRecord (romRead s s.pc) = .compute 0 42 0 7 ∧ taken true 7 (computeValue Config.default 42 0 s) = true
      ∧ s.a = s.pc := by
  decide

theorem witness_StepKeepsTheInvariant :
    Inv (st 3 0x00AA 10 [(3, 0x7777), (65535, 1)])
      ∧ step (st 3 0x00AA 10 [(3, 0x7777), (65535, 1)]) = .next (st 0 0x00AA 11 [(3, 0x7777), (65535, 1)]) := by
  exact ⟨⟨rfl, rfl⟩, rfl⟩

theorem witness_ResetMeetsTheInvariant : construct Config.default none = .next State.reset := rfl

theorem witness_HostMovesKeepTheInvariant :
    InvFor sharedRam State.reset
      ∧ hostMove sharedRam (.externalWrite 65535 7) (session State.reset)
        = .next (session (ramWrite sharedRam State.reset 65535 7)) := by
  exact ⟨⟨⟨rfl, rfl⟩, rfl⟩, rfl⟩

theorem witness_CanonicalMemoriesAreDetermined :
    Memory.wf [(0, 1), (65535, 0xFFFF)] = true ∧ Memory.wf [(65536, 1)] = false ∧ Memory.wf [(3, 0)] = false
      ∧ Memory.wf [(3, 1), (3, 2)] = false := by
  decide

theorem witness_RamNeverReachesTheRegisters : SameButRam (st 3 1 0 []) (st 3 1 0 [(3, 0xBEEF)]) :=
  ⟨rfl, rfl, rfl, rfl⟩

/-- What the host reads of ROM[address] after loading a text there. -/
def loaded (text : Text) (address : Nat) : Option Word :=
  match hostMove Config.default (.load text address) (session State.reset) with
  | .next h => some (romRead h.machine (BitVec.ofNat 16 address))
  | _ => none

theorem witness_LoadedWordIsFetched : loaded ['@', '5'] 0 = some 5 ∧ (5 : Word) ≠ romRead State.reset 0 := by decide

theorem witness_LoadWritesOneRomCell :
    loaded ['0', ';', 'J', 'M', 'P'] 65535 = some 0xEA87 ∧ 65535 < 65536
      ∧ encodeText ['D', '=', 'D', '+', 'Q'] (session State.reset).symbols = .error .syntaxError := by
  decide

theorem test_load_outside_rom :
    hostMove Config.default (.load ['@', '5'] 65536) (session State.reset) = .refused .romAddressOutOfRange := rfl

theorem witness_ClockEdgeCases :
    (edge true true true).rst = true ∧ clockEdge Config.default (edge true true true) (st 1 2 3 [(4, 5)]) = .next State.reset
      ∧ clockEdge Config.default (edge false true true) State.reset = .refused .overlappingHostOperations
      ∧ clockEdge Config.default (edge false false true) State.reset
        = .next { State.reset with rom := [(65535, 0xEA87)] }
      ∧ clockEdge Config.default (edge false false false) (st 1 2 3 [(4, 5)]) = .next (st 1 2 3 [(4, 5)]) := by
  exact ⟨rfl, rfl, rfl, rfl, rfl⟩

theorem witness_RamWritePortIsTheStepsWrite :
    let s : State := { st 16 0x1234 10 [] with rom := [(10, 0xE0EF)] }
    (clockOutputs Config.default true s).ramWe = true
      ∧ (clockOutputs Config.default true s).ramWaddr = some 0xFFFF
      ∧ (clockOutputs Config.default true s).ramWdata = some 0xFFFF
      ∧ (match step s with | .next t => ramRead t 0xFFFF | _ => 0) = 0xFFFF := by
  decide

theorem witness_ExternalRamMoves :
    sharedRam.externalRam = true ∧ Config.default.externalRam = false
      ∧ (List.replicate 65536 (0 : Word)).length = 65536 ∧ ([] : List Word).length ≠ 65536 := by
  exact ⟨rfl, rfl, List.length_replicate, by decide⟩

theorem witness_AllocateOrGetIsStable :
    SymbolTable.fresh.map.lookup ['R', '1', '5'] = some 15 ∧ SymbolTable.fresh.map.lookup ['f', 'o', 'o'] = none := by
  decide

/-- Looking up foo, SP, bar, foo: two new names, at 16 and 17. -/
theorem witness_AllocatedAddressesCountFromSixteen :
    let names : List Text := [['f', 'o', 'o'], ['S', 'P'], ['b', 'a', 'r'], ['f', 'o', 'o']]
    newNames names = [['f', 'o', 'o'], ['b', 'a', 'r']] ∧ (newNames names).length ≤ 16368
      ∧ allocated (lookupAll names) = [16, 17] ∧ (lookupAll names).map.lookup ['b', 'a', 'r'] = some 17 := by
  decide

theorem witness_LiteralsAssembleToThemselves :
    Nat.toDigits 10 32767 = ['3', '2', '7', '6', '7'] ∧ Nat.toDigits 10 32768 = ['3', '2', '7', '6', '8'] := by
  decide

theorem witness_MnemonicTextsAssemble :
    (['D', '|', 'M'], (0b1010101 : BitVec 7)) ∈ compTable ∧ destMask ['A', 'M', 'D', 'D'] = some 7
      ∧ (['J', 'N', 'E'], (5 : BitVec 3)) ∈ jumpTable := by
  decide

theorem witness_EncodeErrorsHaveTheirClass :
    (['X', '=', '1'] : Text).head? ≠ some '@' ∧ encodeText ['X', '=', '1'] SymbolTable.fresh = .error .syntaxError
      ∧ encodeText ['@', '5', 'x'] SymbolTable.fresh = .error .syntaxError := by
  decide

end Sys2Proof.Tests
end

section
/-! The state family: what every step does to each register and to ROM, runs of the machine, and the reset state. -/

namespace Sys2Proof.Machine

/-! ## The outcome of an instruction, a step and a run -/

/-- Inversion of `exec`: every instruction has exactly one next state. -/
theorem exec_eq_next_iff {i : Instr} {s t : State} :
    exec i s = .next t ↔ stepRecord Config.default i.record s = t := by
  rw [exec_eq_stepRecord, Host.Outcome.next.injEq]

/-- Every step goes on (R92). -/
theorem step_eq_next (s : State) :
    step s = .next (stepRecord Config.default (decode (fetch s)).record s) :=
  exec_eq_stepRecord _ s

/-- A run whose first step goes on is the run of the rest from there. -/
theorem run_succ_of_step {M : Host.Core} {s t : M.State} (h : M.step s = .next t) (n : Nat) :
    M.run (n + 1) s = M.run n t := by
  simp only [Host.Core.run, h]

/-- The induction over runs: every run goes on, and keeps what every step keeps. -/
theorem run_keeps {P : State → Prop} (keeps : ∀ s t, step s = .next t → P s → P t)
    (n : Nat) {s : State} (hs : P s) :
    ∃ t, Host.Core.run Sys2Proof.core n s = .next t ∧ P t := by
  induction n generalizing s with
  | zero => exact ⟨s, rfl, hs⟩
  | succ n ih =>
    have hstep := step_eq_next s
    obtain ⟨t, hrun, ht⟩ := ih (keeps _ _ hstep hs)
    exact ⟨t, (run_succ_of_step (M := Sys2Proof.core) hstep n).trans hrun, ht⟩

/-! ## ROM -/

@[simp] theorem addressStep_rom (operand : BitVec 15) (s : State) : (addressStep operand s).rom = s.rom := rfl

@[simp] theorem computeStep_rom (cfg : Config) (a : BitVec 1) (comp : BitVec 6) (dest jump : BitVec 3) (s : State) :
    (computeStep cfg a comp dest jump s).rom = s.rom := by
  rw [computeStep_eq]

/-- No transition of any configuration writes ROM (R45). -/
@[simp] theorem stepRecord_rom (cfg : Config) (r : Record) (s : State) : (stepRecord cfg r s).rom = s.rom := by
  cases r with
  | address operand => exact addressStep_rom operand s
  | compute a comp dest jump => exact computeStep_rom cfg a comp dest jump s

theorem step_rom {s t : State} (h : step s = .next t) : t.rom = s.rom := by
  rw [step_eq_exec, exec_eq_next_iff] at h
  rw [← h, stepRecord_rom]

/-- Settles O32: that ROM is the one of the run's first state is kept by every step. -/
theorem noInstructionWritesRom : Obligations.NoInstructionWritesRom := by
  intro n s
  exact run_keeps (P := fun u => u.rom = s.rom) (fun _ _ h hu => (step_rom h).trans hu) n rfl

/-! ## PC -/

@[simp] theorem addressStep_pc (operand : BitVec 15) (s : State) : (addressStep operand s).pc = s.pc + 1 := rfl

/-- PC after a compute-instruction: its own new A when the jump is taken (R120). -/
theorem computeStep_pc (cfg : Config) (a : BitVec 1) (comp : BitVec 6) (dest jump : BitVec 3) (s : State) :
    (computeStep cfg a comp dest jump s).pc =
      if taken cfg.jumpSigned jump (computeValue cfg comp dest s) then (computeStep cfg a comp dest jump s).a
      else s.pc + 1 := by
  rw [computeStep_a, computeStep_eq]

/-- Settles O29, by the variant of the record and the jump decision. -/
theorem pcMovesByOneOrToA : Obligations.PcMovesByOneOrToA := by
  intro i s t ht
  rw [exec_eq_next_iff] at ht
  subst ht
  have hnext : (s.pc + 1).toNat = (s.pc.toNat + 1) % 65536 := BitVec.toNat_add s.pc 1
  cases hr : i.record with
  | address operand => exact .inl hnext
  | compute a comp dest jump =>
    have hpc := computeStep_pc Config.default a comp dest jump s
    by_cases htaken : taken true jump (computeValue Config.default comp dest s) = true
    · exact .inr ⟨a, comp, dest, jump, rfl, htaken, hpc.trans (if_pos htaken)⟩
    · exact .inl ((congrArg BitVec.toNat (hpc.trans (if_neg htaken))).trans hnext)

/-! ## D -/

@[simp] theorem addressStep_d (operand : BitVec 15) (s : State) : (addressStep operand s).d = s.d := rfl

/-- D after a compute-instruction (R106). -/
theorem computeStep_d (cfg : Config) (a : BitVec 1) (comp : BitVec 6) (dest jump : BitVec 3) (s : State) :
    (computeStep cfg a comp dest jump s).d = if destD dest then computeValue cfg comp dest s else s.d := by
  rw [computeStep_eq]

/-- An address-instruction neither reads nor writes D (R12). -/
theorem addressStep_setD (operand : BitVec 15) (s : State) (d : Word) :
    addressStep operand (setD s d) = setD (addressStep operand s) d := rfl

/-- Settles O30: a changed D rules out the address-instruction and the masks without bit 1. -/
theorem onlyDestDWritesD : Obligations.OnlyDestDWritesD := by
  constructor
  · intro i s t ht hd
    rw [exec_eq_next_iff] at ht
    subst ht
    cases hr : i.record with
    | address operand =>
      rw [hr] at hd
      exact absurd (addressStep_d operand s) hd
    | compute a comp dest jump =>
      rw [hr] at hd
      have hstep := computeStep_d Config.default a comp dest jump s
      by_cases hdest : destD dest = true
      · exact ⟨a, comp, dest, jump, rfl, hdest, hstep.trans (if_pos hdest)⟩
      · exact absurd (hstep.trans (if_neg hdest)) hd
  · intro v s t d ht
    rw [exec_eq_next_iff] at ht ⊢
    subst ht
    exact addressStep_setD v s d

/-! ## Reset -/

theorem Memory.read_nil (k : Nat) : Memory.read [] k = 0 := rfl

/-- A reset state meets the invariant when its RAM content does. -/
theorem resetState_invFor {cfg : Config} {ram : Memory} (hwf : ram.wf = true) (hfits : ram.fits cfg = true) :
    InvFor cfg (resetState cfg ram) :=
  ⟨⟨Memory.wf_nil, hwf⟩, hfits⟩

/-- A construction without external RAM meets the invariant: its RAM is empty. -/
theorem construct_none_invFor {cfg : Config} {s : State} (h : construct cfg none = .next s) : InvFor cfg s := by
  obtain ⟨-, -, rfl⟩ | ⟨cells, -, hcells, -⟩ := construct_cases h
  · exact resetState_invFor Memory.wf_nil rfl
  · cases hcells

/-- The default machine is constructed in `State.reset` (R25). -/
theorem construct_default : construct Config.default none = .next State.reset := rfl

/-- Settles O34: the default machine's reset state is one of the constructions without external RAM. -/
theorem resetMeetsTheInvariant : Obligations.ResetMeetsTheInvariant :=
  ⟨(construct_none_invFor construct_default).1, fun _ _ h => construct_none_invFor h⟩

/-- Settles O39: both memories are empty lists of cells, and an unlisted cell reads 0. (The name `resetState` is the
model's.) -/
theorem resetState_holds : Obligations.ResetState :=
  ⟨State.reset_pc, State.reset_a, State.reset_d, fun addr => Memory.read_nil addr.toNat,
    fun addr => Memory.read_nil addr.toNat, construct_default⟩

end Sys2Proof.Machine
end

section
/-! The memory family: every step keeps the canonical form, the canonical form is determined by what is read, and the
moves of an external RAM's owner. -/

namespace Sys2Proof.Machine

/-! ## RAM after a transition -/

@[simp] theorem addressStep_ram (operand : BitVec 15) (s : State) : (addressStep operand s).ram = s.ram := rfl

/-- RAM after a compute-instruction: at most the cell at its own new A is written (R107). -/
theorem computeStep_ram (cfg : Config) (a : BitVec 1) (comp : BitVec 6) (dest jump : BitVec 3) (s : State) :
    (computeStep cfg a comp dest jump s).ram =
      if destM dest then
        s.ram.write (computeStep cfg a comp dest jump s).a.toNat (ramCell cfg (computeValue cfg comp dest s))
      else s.ram := by
  rw [computeStep_a, computeStep_eq]

/-! ## The canonical form along steps -/

/-- A write at a word address keeps the canonical form: a word is a cell index below 65536 (R30). -/
theorem Memory.wf_write_word {m : Memory} (hm : m.wf = true) (addr v : Word) : (m.write addr.toNat v).wf = true :=
  Memory.wf_write hm addr.isLt v

theorem computeStep_ram_wf {s : State} (hs : s.ram.wf = true) (cfg : Config) (a : BitVec 1) (comp : BitVec 6)
    (dest jump : BitVec 3) : (computeStep cfg a comp dest jump s).ram.wf = true := by
  rw [computeStep_ram]
  split
  · exact Memory.wf_write_word hs _ _
  · exact hs

/-- Every transition of every configuration keeps the canonical form of RAM. -/
theorem stepRecord_ram_wf {s : State} (hs : s.ram.wf = true) (cfg : Config) (r : Record) :
    (stepRecord cfg r s).ram.wf = true := by
  cases r with
  | address operand => simpa [stepRecord] using hs
  | compute a comp dest jump => exact computeStep_ram_wf hs cfg a comp dest jump

/-- Every transition of every configuration keeps the invariant. -/
theorem stepRecord_inv {s : State} (hs : Inv s) (cfg : Config) (r : Record) : Inv (stepRecord cfg r s) := by
  obtain ⟨hrom, hram⟩ := hs
  exact ⟨(stepRecord_rom cfg r s).symm ▸ hrom, stepRecord_ram_wf hram cfg r⟩

/-- Settles O33: a step leaves ROM alone, and its one RAM write is at a word address. -/
theorem stepKeepsTheInvariant : Obligations.StepKeepsTheInvariant := by
  intro s t hs ht
  rw [step_eq_exec, exec_eq_next_iff] at ht
  exact ht ▸ stepRecord_inv hs _ _

/-! ## What is read determines a canonical memory -/

theorem Memory.read_head (c : MemCell) (m : Memory) : Memory.read (c :: m) c.1 = c.2 := if_pos rfl

/-- Nothing is listed below the address a canonical form starts from. -/
theorem Memory.read_below {lo k : Nat} {m : Memory} (hm : Memory.wfFrom lo m = true) (hk : k < lo) :
    m.read k = 0 := by
  induction m generalizing lo with
  | nil => rfl
  | cons c m ih =>
    obtain ⟨hlo, -, -, hrest⟩ := (Memory.wfFrom_cons lo c m).mp hm
    rw [Memory.read_cons, if_neg (by omega)]
    exact ih hrest (by omega)

/-- A canonical list begins at or before every cell that reads other than 0. -/
theorem Memory.head_le_of_read_ne_zero {lo k : Nat} {c : MemCell} {m : Memory}
    (hm : Memory.wfFrom lo (c :: m) = true) (hk : Memory.read (c :: m) k ≠ 0) : c.1 ≤ k := by
  obtain ⟨-, hc⟩ := (Memory.wfFrom_cons lo c m).mp hm
  have hhead : Memory.wfFrom c.1 (c :: m) = true := (Memory.wfFrom_cons c.1 c m).mpr ⟨le_rfl, hc⟩
  by_contra hlt
  exact hk (Memory.read_below hhead (not_le.mp hlt))

/-- Below its first cell and at it, the rest of a canonical list reads 0; above, it reads as the whole. -/
theorem Memory.read_tail {lo : Nat} {c : MemCell} {m : Memory} (hm : Memory.wfFrom lo (c :: m) = true) (k : Nat) :
    m.read k = if k ≤ c.1 then 0 else Memory.read (c :: m) k := by
  obtain ⟨-, -, -, hrest⟩ := (Memory.wfFrom_cons lo c m).mp hm
  split
  · exact Memory.read_below hrest (by omega)
  · rw [Memory.read_cons, if_neg (by omega)]

/-- The canonical form of a non-empty memory reads other than 0 at its first cell. -/
theorem Memory.read_head_ne_zero {lo : Nat} {c : MemCell} {m : Memory} (hm : Memory.wfFrom lo (c :: m) = true) :
    c.1 < 65536 ∧ Memory.read (c :: m) c.1 ≠ 0 := by
  obtain ⟨-, hlt, hc, -⟩ := (Memory.wfFrom_cons lo c m).mp hm
  exact ⟨hlt, (Memory.read_head c m).symm ▸ hc⟩

/-- Two canonical lists that read the same begin with the same cell. -/
theorem Memory.head_eq_of_read_eq {lo lo' : Nat} {c c' : MemCell} {m m' : Memory}
    (hm : Memory.wfFrom lo (c :: m) = true) (hm' : Memory.wfFrom lo' (c' :: m') = true)
    (hread : ∀ k, k < 65536 → Memory.read (c :: m) k = Memory.read (c' :: m') k) : c = c' := by
  obtain ⟨hlt, hne⟩ := Memory.read_head_ne_zero hm
  obtain ⟨hlt', hne'⟩ := Memory.read_head_ne_zero hm'
  have hle : c.1 ≤ c'.1 := Memory.head_le_of_read_ne_zero hm (hread _ hlt' ▸ hne')
  have hle' : c'.1 ≤ c.1 := Memory.head_le_of_read_ne_zero hm' (hread _ hlt ▸ hne)
  have haddr : c.1 = c'.1 := le_antisymm hle hle'
  refine Prod.ext haddr ?_
  calc c.2 = Memory.read (c :: m) c.1 := (Memory.read_head c m).symm
    _ = Memory.read (c' :: m') c'.1 := haddr ▸ hread _ hlt
    _ = c'.2 := Memory.read_head c' m'

/-- The canonical form is determined by what is read, from whatever address each list starts. -/
theorem Memory.eq_of_read_eq {lo lo' : Nat} {m m' : Memory} (hm : Memory.wfFrom lo m = true)
    (hm' : Memory.wfFrom lo' m' = true) (hread : ∀ k, k < 65536 → m.read k = m'.read k) : m = m' := by
  induction m generalizing lo lo' m' with
  | nil =>
    cases m' with
    | nil => rfl
    | cons c' m' =>
      obtain ⟨hlt, hne⟩ := Memory.read_head_ne_zero hm'
      exact absurd (hread _ hlt).symm hne
  | cons c m ih =>
    cases m' with
    | nil =>
      obtain ⟨hlt, hne⟩ := Memory.read_head_ne_zero hm
      exact absurd (hread _ hlt) hne
    | cons c' m' =>
      obtain rfl := Memory.head_eq_of_read_eq hm hm' hread
      obtain ⟨-, -, -, hrest⟩ := (Memory.wfFrom_cons lo c m).mp hm
      obtain ⟨-, -, -, hrest'⟩ := (Memory.wfFrom_cons lo' c m').mp hm'
      have htail : ∀ k, k < 65536 → Memory.read m k = Memory.read m' k := fun k hk => by
        rw [Memory.read_tail hm, Memory.read_tail hm', hread k hk]
      rw [ih hrest hrest' htail]

/-- Settles O36: the canonical form from address 0 on. -/
theorem canonicalMemoriesAreDetermined : Obligations.CanonicalMemoriesAreDetermined :=
  fun _ _ hm hm' hread => Memory.eq_of_read_eq hm hm' hread

/-! ## An external RAM -/

section ExternalRam

variable {cfg : Config}

theorem hostMove_externalRead (hext : cfg.externalRam = true) (h : Session) (addr : Word) :
    hostMove cfg (.externalRead addr) h = .next h := if_pos hext

theorem hostMove_externalWrite (hext : cfg.externalRam = true) (h : Session) (addr v : Word) :
    hostMove cfg (.externalWrite addr v) h = .next { h with machine := ramWrite cfg h.machine addr v } := if_pos hext

theorem hostMove_externalRead_refused (hext : cfg.externalRam = false) (h : Session) (addr : Word) :
    hostMove cfg (.externalRead addr) h = .refused .noExternalRam := if_neg (Bool.eq_false_iff.mp hext)

theorem hostMove_externalWrite_refused (hext : cfg.externalRam = false) (h : Session) (addr v : Word) :
    hostMove cfg (.externalWrite addr v) h = .refused .noExternalRam := if_neg (Bool.eq_false_iff.mp hext)

/-- Construction with an external RAM, said once: its size decides (R44). -/
theorem construct_some (hext : cfg.externalRam = true) (cells : List Word) :
    construct cfg (some cells) =
      if cells.length = 65536 then .next (resetState cfg (Memory.ofCells 0 (cells.map (ramCell cfg))))
      else .refused .externalRamSize := by
  simp only [construct, hext]

end ExternalRam

theorem ramCell_zero (cfg : Config) : ramCell cfg 0 = 0 := by simp [ramCell]

/-- A RAM supplied at construction reads as the owner's cells, cut to the cell width. -/
theorem ramRead_resetState_ofCells (cfg : Config) (cells : List Word) (addr : Word) :
    ramRead (resetState cfg (Memory.ofCells 0 (cells.map (ramCell cfg)))) addr
      = ramCell cfg (cells.getD addr.toNat 0) := by
  calc ramRead (resetState cfg (Memory.ofCells 0 (cells.map (ramCell cfg)))) addr
      = (cells.map (ramCell cfg)).getD addr.toNat 0 := by
        have hread := Memory.read_ofCells 0 addr.toNat (cells.map (ramCell cfg))
        rwa [Nat.zero_add] at hread
    _ = (cells.map (ramCell cfg)).getD addr.toNat (ramCell cfg 0) := by rw [ramCell_zero]
    _ = ramCell cfg (cells.getD addr.toNat 0) := List.getD_map ..

/-- Settles O44: the owner's accesses with EXTERNAL_RAM, their refusal without it, and the two constructions. -/
theorem externalRamMoves : Obligations.ExternalRamMoves := by
  refine ⟨fun cfg h addr v hext => ⟨hostMove_externalRead hext h addr, ?_⟩, fun cfg h addr v hext =>
    ⟨hostMove_externalRead_refused hext h addr, hostMove_externalWrite_refused hext h addr v⟩, fun cfg cells hext =>
    ⟨fun hlen => ?_, fun hlen => ?_⟩⟩
  · exact ⟨_, hostMove_externalWrite hext h addr v, rfl, ramWrite_a .., ramWrite_d .., ramWrite_pc .., ramWrite_rom ..,
      ramRead_ramWrite cfg h.machine addr v⟩
  · exact ⟨_, (construct_some hext cells).trans (if_pos hlen), rfl, ramRead_resetState_ofCells cfg cells⟩
  · exact (construct_some hext cells).trans (if_neg hlen)

end Sys2Proof.Machine
end

section
/-! The encoding family: what the decoder reads of a word, the name it gives a record, the rows that cover a word, and
the bits of a compute word that nothing reads. -/

namespace Sys2Proof

open Sys2Proof.Machine Sys2Proof.Laws

/-! ## What the decoder reads -/

/-- An address word decodes to its low 15 bits (R72). -/
theorem decodeRecord_of_address {w : Word} (hw : w.getLsbD 15 = false) :
    decodeRecord w = .address (w.extractLsb' 0 15) := if_pos hw

/-- A compute word decodes to its four fields (R72). -/
theorem decodeRecord_of_compute {w : Word} (hw : w.getLsbD 15 = true) :
    decodeRecord w =
      .compute (w.extractLsb' 12 1) (w.extractLsb' 6 6) (w.extractLsb' 3 3) (w.extractLsb' 0 3) :=
  if_neg (by simp [hw])

/-- Words that agree under a mask agree in every field the mask keeps whole. -/
theorem extractLsb'_eq_of_and_eq {w w' m : Word} (h : w &&& m = w' &&& m) {start len : Nat}
    (hm : m.extractLsb' start len = BitVec.allOnes len) : w.extractLsb' start len = w'.extractLsb' start len := by
  have kept (v : Word) : (v &&& m).extractLsb' start len = v.extractLsb' start len := by
    rw [BitVec.extractLsb'_and, hm, BitVec.and_allOnes]
  rw [← kept w, h, kept w']

/-- Words that agree under a mask agree in every bit the mask keeps. -/
theorem getLsbD_eq_of_and_eq {w w' m : Word} (h : w &&& m = w' &&& m) {i : Nat} (hm : m.getLsbD i = true) :
    w.getLsbD i = w'.getLsbD i := by
  have hi := congrArg (·.getLsbD i) h
  simpa [hm] using hi

/-- The record of a compute word does not depend on bits 14 and 13 (R54). -/
theorem decodeRecord_eq_of_and_eq {w w' : Word} (hw : w.getLsbD 15 = true)
    (h : w' &&& 0x9FFF#16 = w &&& 0x9FFF#16) : decodeRecord w' = decodeRecord w := by
  have hw' : w'.getLsbD 15 = true := (getLsbD_eq_of_and_eq h rfl).trans hw
  rw [decodeRecord_of_compute hw, decodeRecord_of_compute hw', extractLsb'_eq_of_and_eq h rfl,
    extractLsb'_eq_of_and_eq h rfl, extractLsb'_eq_of_and_eq h rfl, extractLsb'_eq_of_and_eq h rfl]

/-- Decoding and packing again changes bits 14 and 13 at most (R77). -/
theorem pack_decodeRecord_and (w : Word) : pack (decodeRecord w) &&& 0x9FFF#16 = w &&& 0x9FFF#16 := by
  ext i hi
  cases hw : w.getLsbD 15 with
  | false =>
    have hbit : w[15] = false := hw
    rw [decodeRecord_of_address hw, pack]
    interval_cases i <;> simp [hbit]
  | true =>
    have hbit : w[15] = true := hw
    rw [decodeRecord_of_compute hw, pack]
    interval_cases i <;> simp [hbit]

/-- Under a mask without bits 14 and 13 a word is the packed word of its record. -/
theorem and_eq_pack_and {m : Word} (hm : 0x9FFF#16 &&& m = m) (w : Word) : w &&& m = pack (decodeRecord w) &&& m := by
  rw [← hm, ← BitVec.and_assoc, ← BitVec.and_assoc, pack_decodeRecord_and]

/-! ## The name of a record -/

theorem bitVec3_cases (v : BitVec 3) : v = 0 ∨ v = 1 ∨ v = 2 ∨ v = 3 ∨ v = 4 ∨ v = 5 ∨ v = 6 ∨ v = 7 := by
  revert v
  decide

/-- What naming a record may answer: a well-formed instruction that stands for the record. -/
structure Names (i : Instr) (r : Record) : Prop where
  wellFormed : i.wellFormed = true
  record : i.record = r

theorem nameDest_names (a : BitVec 1) (comp : BitVec 6) {dest : BitVec 3} (hdest : dest ≠ 0) :
    Names (nameDest a comp dest 0) (.compute a comp dest 0) := by
  obtain rfl | rfl | rfl | rfl | rfl | rfl | rfl | rfl := bitVec3_cases dest
  · exact absurd rfl hdest
  all_goals exact ⟨rfl, rfl⟩

theorem nameJump_names (a : BitVec 1) (comp : BitVec 6) {jump : BitVec 3} (hjump : jump ≠ 0) :
    Names (nameJump a comp 0 jump) (.compute a comp 0 jump) := by
  obtain rfl | rfl | rfl | rfl | rfl | rfl | rfl | rfl := bitVec3_cases jump
  · exact absurd rfl hjump
  all_goals exact ⟨rfl, rfl⟩

/-- Every entry of the table of mnemonics is well formed and stands for its code, without destination and jump. -/
theorem bareTable_names : ∀ e ∈ bareTable,
    e.2.wellFormed = true ∧ e.2.record = .compute (e.1.extractLsb' 6 1) (e.1.extractLsb' 0 6) 0 0 := by
  decide

theorem bareTable_codes : bareTable.map Prod.fst = mnemonicCodes := rfl

/-- A code without an entry in the table has no mnemonic. -/
theorem hasMnemonic_of_lookup_eq_none {a : BitVec 1} {comp : BitVec 6}
    (h : bareTable.lookup (a ++ comp) = none) : hasMnemonic a comp = false := by
  rw [List.lookup_eq_none_iff] at h
  rw [hasMnemonic, ← bareTable_codes, List.contains_eq_mem, decide_eq_false_iff_not, List.mem_map]
  rintro ⟨e, he, hcode⟩
  simpa [hcode] using h e he

theorem nameBare_names (a : BitVec 1) (comp : BitVec 6) : Names (nameBare a comp) (.compute a comp 0 0) := by
  unfold nameBare
  split
  next i hlookup =>
    obtain ⟨before, after, htable, -⟩ := List.lookup_eq_some_iff.mp hlookup
    obtain ⟨hwf, hrecord⟩ := bareTable_names (a ++ comp, i) (by simp [htable])
    refine ⟨hwf, hrecord.trans ?_⟩
    have ha : (a ++ comp).extractLsb' 6 1 = a := BitVec.extractLsb'_append_eq_left
    have hcomp : (a ++ comp).extractLsb' 0 6 = comp := BitVec.extractLsb'_append_eq_right
    rw [ha, hcomp]
  next hlookup =>
    have hnone := hasMnemonic_of_lookup_eq_none hlookup
    obtain rfl | rfl := BitVec.eq_zero_or_eq_one a
    · exact ⟨by simp [Instr.wellFormed, hnone], rfl⟩
    · exact ⟨by simp [Instr.wellFormed, hnone], rfl⟩

/-- The decoder's name of a record is well formed and loses nothing of the record (log 8). -/
theorem instr_names (r : Record) : Names r.instr r := by
  cases r with
  | address operand => exact ⟨rfl, rfl⟩
  | compute a comp dest jump =>
    rw [Record.instr]
    split_ifs with hdest hjump hjump
    · subst hdest hjump
      exact nameBare_names a comp
    · subst hdest
      exact nameJump_names a comp hjump
    · subst hjump
      exact nameDest_names a comp hdest
    · exact ⟨by simpa [Instr.wellFormed] using ⟨hdest, hjump⟩, rfl⟩

@[simp] theorem decode_wellFormed (w : Word) : (decode w).wellFormed = true := (instr_names _).wellFormed

@[simp] theorem decode_record (w : Word) : (decode w).record = decodeRecord w := (instr_names _).record

/-- What a word does depends on its record alone. -/
theorem exec_decode (w : Word) (s : State) :
    exec (decode w) s = .next (stepRecord Config.default (decodeRecord w) s) := by
  rw [exec_eq_stepRecord, decode_record]

/-! ## The rows of the opcode table -/

/-- The word of every instruction is one its row covers (R63): the part of the word its row fixes is the tag, the
destination, the jump or the code. -/
theorem row_covers_encode (i : Instr) : i.row.covers (encode i) = true := by
  cases i <;>
    simp [Instr.row, Row.covers, encode, Instr.record, pack_address, pack_tag, pack_dest, pack_jump, pack_code]

/-- No row looks at bits 14 and 13. -/
theorem row_mask (i : Instr) : 0x9FFF#16 &&& i.row.mask = i.row.mask := by
  cases i <;> simp only [Instr.row] <;> rfl

/-- The row of the decoder's name covers the word. -/
theorem row_decode_covers (w : Word) : (decode w).row.covers w = true := by
  have hcover := row_covers_encode (decode w)
  rw [encode, decode_record, Row.covers] at hcover
  rwa [Row.covers, and_eq_pack_and (row_mask (decode w))]

/-- Settles O6: the name of a record keeps it, and its row does not look at the bits that packing changes. -/
theorem decodedInstructionIsWellFormed : Obligations.DecodedInstructionIsWellFormed :=
  fun w => ⟨decode_wellFormed w, decode_record w, row_decode_covers w⟩

/-- Of rows with one mask, as many cover a word as have its bits under the mask as their pattern. -/
theorem length_filter_covers {rows : List Row} {m : Word} (hm : ∀ r ∈ rows, r.mask = m) (w : Word) :
    (rows.filter (·.covers w)).length = (rows.map Row.pattern).count (w &&& m) := by
  rw [← List.countP_eq_length_filter, List.count, List.countP_map]
  refine List.countP_congr fun r hr => ?_
  rw [Row.covers, hm r hr, Function.comp_apply, BEq.comm]

/-- The primary rows `A` and `C` partition the words, by the variant of the record. -/
theorem aRow_covers_eq_not_cRow (w : Word) :
    (Instr.aInstr 0).row.covers w = !(Instr.cInstr 0 0 0 0).row.covers w := by
  change (w &&& 0x8000#16 == 0x0000#16) = !(w &&& 0x8000#16 == 0x8000#16)
  rw [and_eq_pack_and rfl w]
  cases decodeRecord w with
  | address operand =>
    rw [pack_address]
    rfl
  | compute a comp dest jump =>
    rw [pack_tag]
    rfl

theorem destRows_cover {w : Word} (hw : w.getLsbD 15 = true) : (destRows.filter (·.covers w)).length = 1 := by
  have hmem : ∀ dest : BitVec 3, 0x8000#16 ||| (dest.setWidth 16 <<< 3) ∈ destRows.map Row.pattern := by decide
  rw [length_filter_covers (m := 0x8038#16) (by decide), and_eq_pack_and rfl, decodeRecord_of_compute hw, pack_dest]
  exact List.count_eq_one_of_mem (by decide) (hmem _)

theorem jumpRows_cover {w : Word} (hw : w.getLsbD 15 = true) : (jumpRows.filter (·.covers w)).length = 1 := by
  have hmem : ∀ jump : BitVec 3, 0x8000#16 ||| jump.setWidth 16 ∈ jumpRows.map Row.pattern := by decide
  rw [length_filter_covers (m := 0x8007#16) (by decide), and_eq_pack_and rfl, decodeRecord_of_compute hw, pack_jump]
  exact List.count_eq_one_of_mem (by decide) (hmem _)

theorem compRows_cover (w : Word) : (compRows.filter (·.covers w)).length ≤ 1 := by
  have hdistinct : (compRows.map Row.pattern).Nodup := by decide
  rw [length_filter_covers (m := 0x9FC0#16) (by decide)]
  exact List.nodup_iff_count_le_one.mp hdistinct _

/-- Settles O7: within each group of rows the mask is one and the patterns differ. -/
theorem opcodeRowsCoverWords : Obligations.OpcodeRowsCoverWords :=
  fun w => ⟨aRow_covers_eq_not_cRow w, fun hw => ⟨destRows_cover hw, jumpRows_cover hw, compRows_cover w⟩⟩

/-! ## Bits 14 and 13 -/

theorem pack_top_bits (a : BitVec 1) (comp : BitVec 6) (dest jump : BitVec 3) :
    (pack (.compute a comp dest jump)).extractLsb' 13 3 = 0b111#3 := by
  ext i hi
  simp only [pack]
  interval_cases i <;> simp

/-- Settles O3: outside bits 14 and 13 the changed word agrees with the word. -/
theorem decodeDropsBitsFourteenThirteen : Obligations.DecodeDropsBitsFourteenThirteen := by
  refine ⟨fun w u hw => ?_, pack_top_bits⟩
  have hagree : ((w &&& 0x9FFF#16) ||| (u.setWidth 16 <<< 13)) &&& 0x9FFF#16 = w &&& 0x9FFF#16 := by
    ext i hi
    interval_cases i <;> simp
  have hrecord := decodeRecord_eq_of_and_eq hw hagree
  exact ⟨hrecord, fun s => by rw [exec_decode, exec_decode, hrecord]⟩

/-! ## Bit 12, the memory-select flag -/

theorem pack_flag (a : BitVec 1) (comp : BitVec 6) (dest jump : BitVec 3) :
    (pack (.compute a comp dest jump)).extractLsb' 12 1 = a := by
  ext i hi
  simp only [pack]
  interval_cases i
  simp

/-- No transition of any configuration reads the flag (R103). -/
theorem stepRecord_flag (cfg : Config) (a a' : BitVec 1) (comp : BitVec 6) (dest jump : BitVec 3) (s : State) :
    stepRecord cfg (.compute a comp dest jump) s = stepRecord cfg (.compute a' comp dest jump) s := rfl

/-- Compute words that differ in bit 12 only have the same transition. -/
theorem stepRecord_flip_flag (cfg : Config) {w : Word} (hw : w.getLsbD 15 = true) (s : State) :
    stepRecord cfg (decodeRecord w) s = stepRecord cfg (decodeRecord (w ^^^ 0x1000#16)) s := by
  have hagree : w &&& 0xEFFF#16 = (w ^^^ 0x1000#16) &&& 0xEFFF#16 := by
    ext i hi
    interval_cases i <;> simp
  have hw' : (w ^^^ 0x1000#16).getLsbD 15 = true := (getLsbD_eq_of_and_eq hagree rfl).symm.trans hw
  rw [decodeRecord_of_compute hw, decodeRecord_of_compute hw', extractLsb'_eq_of_and_eq hagree (start := 6) rfl,
    extractLsb'_eq_of_and_eq hagree (start := 3) rfl, extractLsb'_eq_of_and_eq hagree (start := 0) rfl]
  exact stepRecord_flag ..

/-- Settles O16: the flag is a field of the record that no transition reads. -/
theorem memorySelectFlagIsUnread : Obligations.MemorySelectFlagIsUnread := by
  refine ⟨fun w hw => ⟨_, _, _, decodeRecord_of_compute hw⟩, fun w => rfl,
    fun a comp dest jump => ⟨pack_flag .., pack_flag ..⟩,
    fun w s hw => ⟨fun cfg => stepRecord_flip_flag cfg hw s, ?_⟩, stepRecord_flag,
    fun cfg a comp dest jump s hdest => ?_⟩
  · rw [exec_decode, exec_decode, stepRecord_flip_flag Config.default hw s]
  · exact (computeStep_d cfg a comp dest jump s).trans (if_pos hdest)

end Sys2Proof
end

section
/-! The decoder family: the fields of a word as numbers, packing and decoding as inverses, the instruction that a word
was encoded from, and the software forms of decode and compute. -/

namespace Sys2Proof

open Sys2Proof.Machine Sys2Proof.Laws

/-! ## Decoding a packed record -/

theorem pack_comp_field (a : BitVec 1) (comp : BitVec 6) (dest jump : BitVec 3) :
    (pack (.compute a comp dest jump)).extractLsb' 6 6 = comp := by
  ext i hi
  simp only [pack]
  interval_cases i <;> simp

theorem pack_dest_field (a : BitVec 1) (comp : BitVec 6) (dest jump : BitVec 3) :
    (pack (.compute a comp dest jump)).extractLsb' 3 3 = dest := by
  ext i hi
  simp only [pack]
  interval_cases i <;> simp

theorem pack_jump_field (a : BitVec 1) (comp : BitVec 6) (dest jump : BitVec 3) :
    (pack (.compute a comp dest jump)).extractLsb' 0 3 = jump := by
  ext i hi
  simp only [pack]
  interval_cases i <;> simp

theorem pack_operand_field (operand : BitVec 15) : (pack (.address operand)).extractLsb' 0 15 = operand := by
  rw [pack, ← BitVec.setWidth_eq_extractLsb' (by decide), BitVec.setWidth_setWidth_of_le operand (by decide),
    BitVec.setWidth_eq]

theorem pack_address_variant (operand : BitVec 15) : (pack (.address operand)).getLsbD 15 = false :=
  getLsbD_eq_of_and_eq (w' := 0#16) (pack_address operand) rfl

theorem pack_compute_variant (a : BitVec 1) (comp : BitVec 6) (dest jump : BitVec 3) :
    (pack (.compute a comp dest jump)).getLsbD 15 = true :=
  getLsbD_eq_of_and_eq (w' := 0x8000#16) (pack_tag a comp dest jump) rfl

/-- A record is read back from the word it was packed into (R77). -/
@[simp] theorem decodeRecord_pack (r : Record) : decodeRecord (pack r) = r := by
  cases r with
  | address operand => rw [decodeRecord_of_address (pack_address_variant _), pack_operand_field]
  | compute a comp dest jump =>
    rw [decodeRecord_of_compute (pack_compute_variant ..), pack_flag, pack_comp_field, pack_dest_field,
      pack_jump_field]

/-! ## The instruction a word was encoded from -/

/-- A code without a mnemonic has no entry in the table. -/
theorem lookup_eq_none_of_hasMnemonic {a : BitVec 1} {comp : BitVec 6} (h : hasMnemonic a comp = false) :
    bareTable.lookup (a ++ comp) = none := by
  rw [hasMnemonic, ← bareTable_codes, List.contains_eq_mem, decide_eq_false_iff_not] at h
  exact List.lookup_eq_none_iff.mpr fun e he => bne_iff_ne.mpr fun hcode => h (hcode ▸ List.mem_map_of_mem he)

/-- The name of a bare record whose code has no mnemonic. -/
theorem nameBare_of_not_hasMnemonic {a : BitVec 1} {comp : BitVec 6} (h : hasMnemonic a comp = false) :
    nameBare a comp = if a = 0 then .cDestNone a comp 0 else .cJumpNone a comp 0 := by
  rw [nameBare, lookup_eq_none_of_hasMnemonic h]

/-- A well-formed instruction is the one the decoder names its record by (log 8): the fields its row leaves free and
`Instr.wellFormed` fixes are 0, and a bare row without a mnemonic is not in the table. The last case is the 28 `comp_`
rows. -/
theorem record_instr {i : Instr} (h : i.wellFormed = true) : i.record.instr = i := by
  cases i with
  | aInstr operand => rfl
  | cInstr a comp dest jump =>
    obtain ⟨hdest, hjump⟩ : dest ≠ 0 ∧ jump ≠ 0 := by simpa [Instr.wellFormed] using h
    rw [Instr.record, Record.instr, if_neg hdest, if_neg hjump]
  | cDestNone a comp jump =>
    obtain ⟨⟨rfl, rfl⟩, hcode⟩ : (jump = 0 ∧ a = 0) ∧ hasMnemonic a comp = false := by
      simpa [Instr.wellFormed] using h
    exact nameBare_of_not_hasMnemonic hcode
  | cJumpNone a comp dest =>
    obtain ⟨⟨rfl, rfl⟩, hcode⟩ : (dest = 0 ∧ a = 1) ∧ hasMnemonic a comp = false := by
      simpa [Instr.wellFormed] using h
    exact nameBare_of_not_hasMnemonic hcode
  | cDestM _ _ jump | cDestD _ _ jump | cDestMD _ _ jump | cDestA _ _ jump | cDestAM _ _ jump | cDestAD _ _ jump
  | cDestAMD _ _ jump =>
    obtain rfl : jump = 0 := beq_iff_eq.mp h
    rfl
  | cJumpJGT _ _ dest | cJumpJEQ _ _ dest | cJumpJGE _ _ dest | cJumpJLT _ _ dest | cJumpJNE _ _ dest
  | cJumpJLE _ _ dest | cJumpJMP _ _ dest =>
    obtain rfl : dest = 0 := beq_iff_eq.mp h
    rfl
  | _ dest jump =>
    obtain ⟨rfl, rfl⟩ : dest = 0 ∧ jump = 0 := by simpa [Instr.wellFormed] using h
    rfl

/-- Settles O5: decoding gives the record of the instruction back, and the naming gives the instruction back. -/
theorem decodeOfEncodeIsIdentity : Obligations.DecodeOfEncodeIsIdentity := by
  intro i hwf
  rw [decode, encode, decodeRecord_pack, record_instr hwf]

/-! ## The fields of a word as numbers -/

/-- The variant bit of a word, as a comparison of its number. -/
theorem variant_eq_decide (w : Word) : w.getLsbD 15 = decide (32768 ≤ w.toNat) :=
  (BitVec.msb_eq_getLsbD_last w).symm.trans (BitVec.msb_eq_decide w)

theorem variant_eq_true_iff {w : Word} : w.getLsbD 15 = true ↔ 32768 ≤ w.toNat := by
  rw [variant_eq_decide, decide_eq_true_iff]

theorem variant_eq_false_iff {w : Word} : w.getLsbD 15 = false ↔ w.toNat < 32768 := by
  rw [variant_eq_decide, decide_eq_false_iff_not, Nat.not_le]

/-- A field of a word, as a quotient and a remainder of its number. -/
theorem extractLsb'_toNat_eq_div_mod (w : Word) (start len : Nat) :
    (w.extractLsb' start len).toNat = w.toNat / 2 ^ start % 2 ^ len := by
  rw [BitVec.extractLsb'_toNat, Nat.shiftRight_eq_div_pow]

theorem decoderPorts_operand_toNat (w : Word) : (decoderPorts w).operand.toNat = w.toNat % 32768 := by
  simp [decoderPorts]

theorem decoderPorts_a_toNat (w : Word) : (decoderPorts w).a.toNat = w.toNat / 4096 % 2 :=
  extractLsb'_toNat_eq_div_mod w 12 1

theorem decoderPorts_comp_toNat (w : Word) : (decoderPorts w).comp.toNat = w.toNat / 64 % 64 :=
  extractLsb'_toNat_eq_div_mod w 6 6

theorem decoderPorts_dest_toNat (w : Word) : (decoderPorts w).dest.toNat = w.toNat / 8 % 8 :=
  extractLsb'_toNat_eq_div_mod w 3 3

theorem decoderPorts_jump_toNat (w : Word) : (decoderPorts w).jump.toNat = w.toNat % 8 := by
  simp [decoderPorts]

/-- Settles O1: the fields of the record are the ports, and each port is a quotient and a remainder of the number. -/
theorem decodeReadsTheFields : Obligations.DecodeReadsTheFields := by
  refine fun w => ⟨fun hw => ?_, fun hw => ?_, variant_eq_decide w, decoderPorts_operand_toNat w,
    decoderPorts_a_toNat w, decoderPorts_comp_toNat w, decoderPorts_dest_toNat w, decoderPorts_jump_toNat w⟩
  · exact ⟨(decoderPorts w).operand, decodeRecord_of_address (variant_eq_false_iff.mpr hw),
      (decoderPorts_operand_toNat w).trans (Nat.mod_eq_of_lt hw)⟩
  · exact ⟨(decoderPorts w).a, (decoderPorts w).comp, (decoderPorts w).dest, (decoderPorts w).jump,
      decodeRecord_of_compute (variant_eq_true_iff.mpr hw), decoderPorts_a_toNat w, decoderPorts_comp_toNat w,
      decoderPorts_dest_toNat w, decoderPorts_jump_toNat w⟩

/-! ## Packing a decoded word -/

theorem pack_decodeRecord_of_address {w : Word} (hw : w.getLsbD 15 = false) : pack (decodeRecord w) = w := by
  have hoperand : (w.extractLsb' 0 15).toNat = w.toNat :=
    (decoderPorts_operand_toNat w).trans (Nat.mod_eq_of_lt (variant_eq_false_iff.mp hw))
  rw [decodeRecord_of_address hw, pack]
  exact BitVec.eq_of_toNat_eq ((BitVec.toNat_setWidth_of_le (by decide)).trans hoperand)

/-- Setting bits 14 and 13 again changes nothing where the three top bits are set. -/
theorem or_unread_bits_of_top_bits {w : Word} (h : w.extractLsb' 13 3 = 0b111#3) : w ||| 0x6000#16 = w := by
  have h13 : w[13] = true := by simpa using congrArg (·.getLsbD 0) h
  have h14 : w[14] = true := by simpa using congrArg (·.getLsbD 1) h
  ext i hi
  interval_cases i <;> simp [h13, h14]

/-- Setting bits 14 and 13 does not look at what they were. -/
theorem and_or_unread_bits (w : Word) : (w &&& 0x9FFF#16) ||| 0x6000#16 = w ||| 0x6000#16 := by
  ext i hi
  interval_cases i <;> simp

/-- Packing the record of a compute word sets bits 14 and 13 (R77). -/
theorem pack_decodeRecord_of_compute {w : Word} (hw : w.getLsbD 15 = true) :
    pack (decodeRecord w) = w ||| 0x6000#16 := by
  have htop : (pack (decodeRecord w)).extractLsb' 13 3 = 0b111#3 := by
    rw [decodeRecord_of_compute hw, pack_top_bits]
  calc pack (decodeRecord w)
      = pack (decodeRecord w) ||| 0x6000#16 := (or_unread_bits_of_top_bits htop).symm
    _ = w ||| 0x6000#16 := by rw [← and_or_unread_bits, pack_decodeRecord_and, and_or_unread_bits]

/-- Settles O4: a word whose three top bits are set is a compute word, and packing sets no bit it does not have. -/
theorem packAndDecodeAreInverse : Obligations.PackAndDecodeAreInverse := by
  refine ⟨decodeRecord_pack, fun w hw => ?_, fun w => pack_decodeRecord_of_compute⟩
  obtain hvariant | htop := hw
  · exact pack_decodeRecord_of_address hvariant
  · have hvariant : w.getLsbD 15 = true := by simpa using congrArg (·.getLsbD 2) htop
    exact (pack_decodeRecord_of_compute hvariant).trans (or_unread_bits_of_top_bits htop)

/-! ## The software forms -/

theorem decodeSoftware_of_le {n : Nat} (hn : 65536 ≤ n) : decodeSoftware n = .error .rangeError :=
  if_neg (Nat.not_lt.mpr hn)

theorem decodeSoftware_toNat (w : Word) : decodeSoftware w.toNat = .ok (decodeRecord w) := by
  rw [decodeSoftware, if_pos w.isLt, BitVec.ofNat_toNat, BitVec.setWidth_eq]

theorem aluSoftware_of_le {x y : Nat} (h : 65536 ≤ x ∨ 65536 ≤ y) (c : AluCtrl) :
    aluSoftware x y c = .error .rangeError :=
  if_neg (by omega)

theorem aluSoftware_toNat (x y : Word) (c : AluCtrl) : aluSoftware x.toNat y.toNat c = .ok (alu x y c) := by
  rw [aluSoftware, if_pos ⟨x.isLt, y.isLt⟩, BitVec.ofNat_toNat, BitVec.ofNat_toNat, BitVec.setWidth_eq,
    BitVec.setWidth_eq]

/-- Settles O8: both software forms test the range first and run the hardware function on what is left. -/
theorem softwareFormsRejectWideNumbers : Obligations.SoftwareFormsRejectWideNumbers :=
  ⟨fun _ => decodeSoftware_of_le, decodeSoftware_toNat, fun _ _ c h => aluSoftware_of_le h c, aluSoftware_toNat⟩

end Sys2Proof
end

section
/-! The ALU family: the bit form of the ALU (R85), from which the functions it cannot compute (R83, R89) and its
identities (R89) follow. -/

namespace Sys2Proof.Machine

/-! ## Each bit of the result -/

theorem not16_getLsbD (v : Word) {i : Nat} (hi : i < 16) : (not16 v).getLsbD i = !v.getLsbD i := by
  rw [not16_eq_not, BitVec.getLsbD_not, decide_eq_true hi, Bool.true_and]

theorem aluOperand_getLsbD (z n : Bool) (v : Word) {i : Nat} (hi : i < 16) :
    (aluOperand z n v).getLsbD i = ((v.getLsbD i && !z) ^^ n) := by
  cases z <;> cases n <;> simp [aluOperand, not16_getLsbD _ hi]

theorem aluCombine_getLsbD (f no : Bool) (x y : Word) {i : Nat} (hi : i < 16) :
    (aluCombine f no x y).getLsbD i =
      ((if f then x.getLsbD i && y.getLsbD i else x.getLsbD i || y.getLsbD i) ^^ no) := by
  cases f <;> cases no <;> simp [aluCombine, not16_getLsbD _ hi]

theorem alu_getLsbD (x y : Word) (c : AluCtrl) {i : Nat} (hi : i < 16) :
    (alu x y c).getLsbD i = aluBit c (x.getLsbD i) (y.getLsbD i) := by
  rw [alu, aluCombine_getLsbD _ _ _ _ hi, aluOperand_getLsbD _ _ _ hi, aluOperand_getLsbD _ _ _ hi, aluBit]

/-- Settles O9, stage by stage. -/
theorem aluIsBitSliced : Obligations.AluIsBitSliced := fun x y c _ hi => alu_getLsbD x y c hi

/-- To know the result is to know the bit function at each position. -/
theorem alu_eq_of_aluBit {x y r : Word} {c : AluCtrl}
    (h : ∀ i < 16, aluBit c (x.getLsbD i) (y.getLsbD i) = r.getLsbD i) : alu x y c = r :=
  BitVec.eq_of_getLsbD_eq fun i hi => (alu_getLsbD x y c hi).trans (h i hi)

/-! ## What no control value computes -/

/-- A function whose bit 1 changes when only bits 0 of its operands change carries or borrows, and the ALU, bit by bit
the same function of the two bits there, is no such function. -/
theorem alu_ne_of_carry {c : AluCtrl} {g : Word → Word → Word} (x y : Word)
    (hx : x.getLsbD 1 = false) (hy : y.getLsbD 1 = false) (hg : (g x y).getLsbD 1 ≠ (g 0 0).getLsbD 1) :
    ¬ ∀ x y : Word, alu x y c = g x y := by
  intro h
  apply hg
  calc (g x y).getLsbD 1
      = aluBit c (x.getLsbD 1) (y.getLsbD 1) := by rw [← h, alu_getLsbD _ _ _ (by decide)]
    _ = aluBit c ((0 : Word).getLsbD 1) ((0 : Word).getLsbD 1) := congrArg₂ (aluBit c) hx hy
    _ = (g 0 0).getLsbD 1 := by rw [← h, alu_getLsbD _ _ _ (by decide)]

/-- Either the bit function ignores x (when x is zeroed), or one value of x decides it: the one whose prepared bit is
false for AND and true for OR. -/
theorem aluBit_ignores_or_is_decided_by_x (c : AluCtrl) :
    (∀ a a' b, aluBit c a b = aluBit c a' b) ∨ ∃ a, ∀ b b', aluBit c a b = aluBit c a b' := by
  obtain ⟨zx, nx, zy, ny, f, no⟩ := c
  cases zx with
  | true => exact .inl fun a a' b => by simp [aluBit]
  | false => exact .inr ⟨!f ^^ nx, fun b b' => by cases f <;> simp [aluBit]⟩

/-- XOR depends on y for each value of x, and on x. -/
theorem aluBit_ne_xor (c : AluCtrl) : ¬ ∀ a b, aluBit c a b = (a ^^ b) := by
  intro h
  obtain hignored | ⟨a, hdecided⟩ := aluBit_ignores_or_is_decided_by_x c
  · simpa [h] using hignored false true false
  · simpa [h] using hdecided false true

/-- Operands with the same bit at every position carry the bit function to the words. -/
theorem alu_ne_xor (c : AluCtrl) : ¬ ∀ x y : Word, alu x y c = x ^^^ y := by
  intro h
  refine aluBit_ne_xor c fun a b => ?_
  have hbit := alu_getLsbD (BitVec.fill 16 a) (BitVec.fill 16 b) c (i := 0) (by decide)
  simpa [h] using hbit.symm

/-- Settles O10: each arithmetic function carries or borrows from bit 0 into bit 1, at the operands given here, and XOR
is neither AND nor OR of prepared bits. -/
theorem aluHasNoAdder : Obligations.AluHasNoAdder := by
  refine ⟨fun _ _ => ⟨rfl, rfl⟩, fun _ _ => rfl, fun _ _ => rfl, fun c => ⟨?add, ?sub, ?subRev, ?incX, ?incY, ?decX,
    ?decY, ?negX, ?negY, alu_ne_xor c⟩⟩
  case add => exact alu_ne_of_carry (g := fun x y => x + y) 1 1 rfl rfl (by decide)
  case sub => exact alu_ne_of_carry (g := fun x y => x - y) 0 1 rfl rfl (by decide)
  case subRev => exact alu_ne_of_carry (g := fun x y => y - x) 1 0 rfl rfl (by decide)
  case incX => exact alu_ne_of_carry (g := fun x _ => x + 1) 1 0 rfl rfl (by decide)
  case incY => exact alu_ne_of_carry (g := fun _ y => y + 1) 0 1 rfl rfl (by decide)
  case decX => exact alu_ne_of_carry (g := fun x _ => x - 1) 1 0 rfl rfl (by decide)
  case decY => exact alu_ne_of_carry (g := fun _ y => y - 1) 0 1 rfl rfl (by decide)
  case negX => exact alu_ne_of_carry (g := fun x _ => -x) 1 0 rfl rfl (by decide)
  case negY => exact alu_ne_of_carry (g := fun _ y => -y) 0 1 rfl rfl (by decide)

/-! ## Identities -/

/-- De Morgan: complementing both operands and the result makes AND of OR and OR of AND. -/
theorem aluBit_deMorgan (f a b : Bool) :
    aluBit ⟨false, true, false, true, f, true⟩ a b = if f then a || b else a && b := by
  cases f <;> simp [aluBit]

theorem aluBit_zeroed (f no a b : Bool) : aluBit ⟨true, false, true, false, f, no⟩ a b = no := by
  cases f <;> simp [aluBit]

theorem aluBit_project_x (a b : Bool) : aluBit ⟨false, false, true, false, false, false⟩ a b = a := by
  simp [aluBit]

theorem aluBit_project_y (a b : Bool) : aluBit ⟨true, false, false, false, false, false⟩ a b = b := by
  simp [aluBit]

/-- Settles O11: each identity is one of the bit function, at every position. -/
theorem aluIdentities : Obligations.AluIdentities := by
  refine fun x y f => ⟨alu_eq_of_aluBit fun i _ => ?deMorganOr, alu_eq_of_aluBit fun i _ => ?deMorganAnd,
    alu_eq_of_aluBit fun i _ => ?zero, alu_eq_of_aluBit (r := BitVec.allOnes 16) fun i hi => ?ones,
    alu_eq_of_aluBit fun i _ => aluBit_project_x _ _, alu_eq_of_aluBit fun i _ => aluBit_project_y _ _⟩
  case deMorganOr => exact (aluBit_deMorgan true _ _).trans BitVec.getLsbD_or.symm
  case deMorganAnd => exact (aluBit_deMorgan false _ _).trans BitVec.getLsbD_and.symm
  case zero => exact (aluBit_zeroed f false _ _).trans BitVec.getLsbD_zero.symm
  case ones => rw [aluBit_zeroed, BitVec.getLsbD_allOnes, decide_eq_true hi]

end Sys2Proof.Machine
end

section
/-! The step family: what a step is (the meaning of the fetched word, and the default configuration's transition), the
address-instruction, the run of an empty ROM, and the RAM write port. -/

namespace Sys2Proof

open Sys2Proof.Machine

/-! ## Every step goes on -/

/-- Settles O13: every meaning ends in the next state of its record's transition. -/
theorem everyStepGoesOn : Obligations.EveryStepGoesOn :=
  ⟨fun s => ⟨_, step_eq_next s⟩, fun i s => ⟨_, exec_eq_stepRecord i s⟩⟩

/-! ## Step, transition and clock edge -/

/-- A step is the default configuration's transition: the constructor the decoder names has the word's record. -/
theorem step_eq_stepWith (s : State) : step s = .next (stepWith Config.default s) := exec_decode (fetch s) s

/-- The clock edge with `step_en` alone is the transition, for every configuration (R90, R96). -/
theorem clockEdge_of_stepEn_alone (cfg : Config) {i : ClockInputs} (hrst : i.rst = false) (hstep : i.stepEn = true)
    (hrom : i.romWe = false) (s : State) : clockEdge cfg i s = .next (stepWith cfg s) := by
  simp [clockEdge, hrst, hstep, hrom]

/-- Settles O14: both are the default configuration's transition. -/
theorem stepIsTheConfiguredTransition : Obligations.StepIsTheConfiguredTransition := fun s =>
  ⟨step_eq_stepWith s, fun _ hrst hstep hrom =>
    (clockEdge_of_stepEn_alone Config.default hrst hstep hrom s).trans (step_eq_stepWith s).symm⟩

/-- The transition on an address word (R95). -/
theorem stepWith_of_address (cfg : Config) {s : State} (h : (fetch s).getLsbD 15 = false) :
    stepWith cfg s = addressStep ((fetch s).extractLsb' 0 15) s := by
  rw [stepWith, decodeRecord_of_address h, stepRecord]

/-- The transition on a compute word (R95), with the fields as they stand at the decoder's ports. -/
theorem stepWith_of_compute (cfg : Config) {s : State} (h : (fetch s).getLsbD 15 = true) :
    stepWith cfg s = computeStep cfg (decoderPorts (fetch s)).a (decoderPorts (fetch s)).comp
      (decoderPorts (fetch s)).dest (decoderPorts (fetch s)).jump s := by
  rw [stepWith, decodeRecord_of_compute h, stepRecord, decoderPorts]

/-! ## The fetched word -/

/-- A word the host loads at PC is the one the next step fetches (R152). -/
theorem fetch_romWrite_pc (s : State) (w : Word) : fetch (romWrite s s.pc w) = w :=
  (romRead_romWrite s s.pc w s.pc).trans (if_pos rfl)

theorem withFetchWord_toNat (s : State) (n : Nat) (w : Word) : s.withFetchWord n w.toNat = romWrite s s.pc w := by
  rw [State.withFetchWord, BitVec.ofNat_toNat, BitVec.setWidth_eq]

/-- Settles O12: a step is the meaning of the fetched word, and `withFetchWord` is the host's load at PC. -/
theorem stepRunsDecodedInstruction : Obligations.StepRunsDecodedInstruction := by
  constructor
  · rintro s _ rfl -
    exact step_eq_exec s
  · intro s n w
    rw [withFetchWord_toNat, step, fetch_romWrite_pc]

/-! ## The address-instruction -/

@[simp] theorem addressStep_a (operand : BitVec 15) (s : State) :
    (addressStep operand s).a = operand.setWidth 16 := rfl

/-- Settles O17: `addressStep` field by field; the operand has 15 bits, so bit 15 of the new A is 0. -/
theorem addressInstructionResult : Obligations.AddressInstructionResult := by
  intro v s
  refine ⟨addressStep v s, exec_eq_stepRecord (.aInstr v) s, ?_, ?_, ?_, addressStep_d v s, fun _ => ?_, fun _ => ?_⟩
  · rw [addressStep_a, BitVec.toNat_setWidth_of_le (by decide)]
  · rw [addressStep_a, BitVec.getLsbD_setWidth, BitVec.getLsbD_of_ge v 15 le_rfl, Bool.and_false]
  · rw [addressStep_pc]
    exact BitVec.toNat_add s.pc 1
  · rw [ramRead, addressStep_ram, ramRead]
  · rw [romRead, addressStep_rom, romRead]

/-! ## The run of an empty ROM -/

/-- The reset state but for PC, which is `n` mod 65536. -/
def resetAtPc (n : Nat) : State := setPc State.reset (BitVec.ofNat 16 n)

/-- Every fetch from an empty ROM is the word 0, the instruction @0 (R99): it loads A with the 0 it holds, and moves
PC on. -/
theorem step_resetAtPc (n : Nat) : step (resetAtPc n) = .next (resetAtPc (n + 1)) := by
  have hfetch : fetch (resetAtPc n) = 0 := Memory.read_nil (resetAtPc n).pc.toNat
  have hpc : BitVec.ofNat 16 n + 1 = BitVec.ofNat 16 (n + 1) := (BitVec.ofNat_add n 1).symm
  calc step (resetAtPc n)
      = .next (addressStep 0 (resetAtPc n)) := by rw [step, hfetch]; rfl
    _ = .next (setPc State.reset (BitVec.ofNat 16 n + 1)) := rfl
    _ = .next (resetAtPc (n + 1)) := by rw [hpc, resetAtPc]

theorem run_resetAtPc (k n : Nat) :
    Host.Core.run Sys2Proof.core k (resetAtPc n) = .next (resetAtPc (n + k)) := by
  induction k generalizing n with
  | zero => rfl
  | succ k ih =>
    rw [run_succ_of_step (M := Sys2Proof.core) (step_resetAtPc n) k, ih, Nat.add_assoc, Nat.add_comm 1 k]

/-- Settles O38: the reset state is the one at PC 0, and each step moves PC on and keeps the rest. -/
theorem emptyRomRun : Obligations.EmptyRomRun := by
  intro n
  have hrun : Host.Core.run Sys2Proof.core n State.reset = .next (resetAtPc n) := by
    have h := run_resetAtPc n 0
    rwa [Nat.zero_add] at h
  exact ⟨resetAtPc n, hrun, BitVec.toNat_ofNat n 16, rfl, rfl, fun addr => Memory.read_nil addr.toNat,
    fun addr => Memory.read_nil addr.toNat⟩

/-! ## The RAM write port -/

/-- The write enable is low unless the block steps on a compute word with destination M (R90). -/
theorem clockOutputs_ramWe (cfg : Config) (stepEn : Bool) (s : State) :
    (clockOutputs cfg stepEn s).ramWe =
      (stepEn && (fetch s).getLsbD 15 && destM (decoderPorts (fetch s)).dest) := rfl

/-- On a compute word the port's address is the A that the step leaves (R107; D4). -/
theorem clockOutputs_ramWaddr (cfg : Config) (stepEn : Bool) {s : State} (h : (fetch s).getLsbD 15 = true) :
    (clockOutputs cfg stepEn s).ramWaddr = some (stepWith cfg s).a := by
  rw [stepWith_of_compute cfg h, computeStep_a]
  exact if_pos h

theorem clockOutputs_ramWdata (cfg : Config) (stepEn : Bool) {s : State} (h : (fetch s).getLsbD 15 = true) :
    (clockOutputs cfg stepEn s).ramWdata =
      some (computeValue cfg (decoderPorts (fetch s)).comp (decoderPorts (fetch s)).dest s) :=
  if_pos h

/-- RAM after a transition of any configuration, as the write port says it; the cell keeps its own width of the data
(R34). -/
theorem ramRead_stepWith (cfg : Config) (s : State) (addr : Word) :
    ramRead (stepWith cfg s) addr =
      if (clockOutputs cfg true s).ramWe = true ∧ (clockOutputs cfg true s).ramWaddr = some addr
      then ramCell cfg ((clockOutputs cfg true s).ramWdata.getD 0) else ramRead s addr := by
  cases h : (fetch s).getLsbD 15 with
  | false =>
    have hwe : (clockOutputs cfg true s).ramWe = false := by rw [clockOutputs_ramWe, h]; rfl
    rw [if_neg (by simp [hwe]), stepWith_of_address cfg h, ramRead, addressStep_ram, ramRead]
  | true =>
    have hwe : (clockOutputs cfg true s).ramWe = destM (decoderPorts (fetch s)).dest := by
      rw [clockOutputs_ramWe, h]; rfl
    rw [hwe, clockOutputs_ramWaddr cfg true h, clockOutputs_ramWdata cfg true h, stepWith_of_compute cfg h,
      ramRead_computeStep]
    simp only [Option.some.injEq, Option.getD_some, eq_comm (a := addr)]

/-- Settles O43: with 16-bit cells the port's data is kept whole, and without `step_en` the write enable is low. -/
theorem ramWritePortIsTheStepsWrite : Obligations.RamWritePortIsTheStepsWrite := by
  refine ⟨fun s t ht addr => ?_, fun cfg s => clockOutputs_ramWe cfg false s⟩
  obtain rfl : stepWith Config.default s = t := Host.Outcome.next.inj ((step_eq_stepWith s).symm.trans ht)
  rw [ramRead_stepWith, ramCell_default]

end Sys2Proof
end

section
/-! The compute-instruction family: the value a compute-instruction computes and what it depends on, the jump decision
by ranges of the value, the registers and memories after the instruction, and the runs of states that differ in RAM. -/

namespace Sys2Proof.Machine

/-! ## The value -/

/-- A zeroed operand is not read (R81). -/
theorem aluOperand_zeroed (n : Bool) (v v' : Word) : aluOperand true n v = aluOperand true n v' := rfl

/-- The controls under the default CTRL_MAP, with the low three bits of the computation code as a field. -/
def defaultCtrl (dest c : BitVec 3) : AluCtrl :=
  ⟨dest.getLsbD 2, dest.getLsbD 1, dest.getLsbD 0, c.getLsbD 2, c.getLsbD 1, c.getLsbD 0⟩

/-- Under the default CTRL_MAP the computation code is read in its low three bits only (R103). -/
theorem aluCtrl_default_eq (comp : BitVec 6) (dest : BitVec 3) :
    aluCtrl Config.default.ctrlMap comp dest = defaultCtrl dest (comp.extractLsb' 0 3) := by
  simp [aluCtrl_default, defaultCtrl]

/-- Where the default CTRL_MAP has RAM as the `y` operand it also has `zy`, so A may stand for it (R104). -/
theorem aluOperand_yOperand_default (n : Bool) (dest : BitVec 3) (s : State) :
    aluOperand (destM dest) n (yOperand dest s) = aluOperand (destM dest) n s.a := by
  rw [yOperand]
  cases destM dest with
  | true => exact aluOperand_zeroed n _ _
  | false => rfl

/-- The word operation of a truth table, which is given as its values at 00, 01, 10 and 11. -/
def wordOp (ff ft tf tt : Bool) (x y : Word) : Word :=
  match ff, ft, tf, tt with
  | false, false, false, false => 0#16
  | false, false, false, true => x &&& y
  | false, false, true, false => x &&& ~~~y
  | false, false, true, true => x
  | false, true, false, false => ~~~x &&& y
  | false, true, false, true => y
  | false, true, true, false => x ^^^ y
  | false, true, true, true => x ||| y
  | true, false, false, false => ~~~(x ||| y)
  | true, false, false, true => ~~~(x ^^^ y)
  | true, false, true, false => ~~~y
  | true, false, true, true => x ||| ~~~y
  | true, true, false, false => ~~~x
  | true, true, false, true => ~~~x ||| y
  | true, true, true, false => ~~~(x &&& y)
  | true, true, true, true => 0xFFFF#16

theorem wordOp_getLsbD_eq_cond (ff ft tf tt : Bool) (x y : Word) {i : Nat} (hi : i < 16) :
    (wordOp ff ft tf tt x y).getLsbD i =
      bif x.getLsbD i then (bif y.getLsbD i then tt else tf) else (bif y.getLsbD i then ft else ff) := by
  have hones : (0xFFFF#16)[i] = true := BitVec.getElem_allOnes i hi
  cases ff <;> cases ft <;> cases tf <;> cases tt <;> simp [wordOp, hi, hones] <;>
    cases x[i] <;> simp

/-- Each bit of the operation is the truth table's value at the operands' bits. -/
theorem wordOp_getLsbD (f : Bool → Bool → Bool) (x y : Word) {i : Nat} (hi : i < 16) :
    (wordOp (f false false) (f false true) (f true false) (f true true) x y).getLsbD i
      = f (x.getLsbD i) (y.getLsbD i) := by
  rw [wordOp_getLsbD_eq_cond _ _ _ _ _ _ hi]
  cases x.getLsbD i <;> cases y.getLsbD i <;> rfl

/-- Each of the 64 entries of the table of R125 is the word operation of its controls' bit function. -/
theorem tableValue_eq_wordOp (dest c : BitVec 3) (d a : Word) :
    tableValue dest c d a = wordOp (aluBit (defaultCtrl dest c) false false) (aluBit (defaultCtrl dest c) false true)
      (aluBit (defaultCtrl dest c) true false) (aluBit (defaultCtrl dest c) true true) d a := by
  obtain rfl | rfl | rfl | rfl | rfl | rfl | rfl | rfl := bitVec3_cases dest <;>
  obtain rfl | rfl | rfl | rfl | rfl | rfl | rfl | rfl := bitVec3_cases c <;>
  rfl

/-- The ALU with the default controls computes the table of R125: both are determined by one bit function. -/
theorem alu_defaultCtrl (dest c : BitVec 3) (d a : Word) : alu d a (defaultCtrl dest c) = tableValue dest c d a :=
  (alu_eq_of_aluBit fun _ hi => (wordOp_getLsbD (aluBit _) d a hi).symm).trans (tableValue_eq_wordOp dest c d a).symm

/-- The value of the default machine is the table's (R125): it depends on D, A, the destination mask and comp[2:0]. -/
theorem computeValue_default (comp : BitVec 6) (dest : BitVec 3) (s : State) :
    computeValue Config.default comp dest s = tableValue dest (comp.extractLsb' 0 3) s.d s.a := by
  rw [← alu_defaultCtrl, ← aluCtrl_default_eq]
  exact congrArg (aluCombine _ _ _) (aluOperand_yOperand_default _ dest s)

/-- The value depends on D and the `y` operand alone (R100, R101). -/
theorem computeValue_congr (cfg : Config) (comp : BitVec 6) {dest : BitVec 3} {s t : State} (hd : s.d = t.d)
    (hy : yOperand dest s = yOperand dest t) : computeValue cfg comp dest s = computeValue cfg comp dest t := by
  rw [computeValue, computeValue, hy, xOperand, xOperand, hd]

/-- The computation code acts through the value alone, and the memory-select flag not at all (R103). -/
theorem computeStep_eq_of_value_eq (cfg : Config) (a a' : BitVec 1) {comp comp' : BitVec 6} {dest : BitVec 3}
    (jump : BitVec 3) {s : State} (h : computeValue cfg comp dest s = computeValue cfg comp' dest s) :
    computeStep cfg a comp dest jump s = computeStep cfg a' comp' dest jump s := by
  simp only [computeStep, h]

/-- The transition on a compute record (R95). -/
theorem stepRecord_compute (cfg : Config) (a : BitVec 1) (comp : BitVec 6) (dest jump : BitVec 3) (s : State) :
    stepRecord cfg (.compute a comp dest jump) s = computeStep cfg a comp dest jump s := rfl

/-- A field that lies within the low nine bits is read from them. -/
theorem extractLsb'_of_low_nine (w : Word) {start len : Nat} (h : start + len ≤ 9) :
    w.extractLsb' start len = (w.extractLsb' 0 9).extractLsb' start len := by
  ext i hi
  simp [show start + i < 9 by omega]

/-- The low three bits of the computation code are bits 8..6 of the word. -/
theorem comp_low_of_word (w : Word) : (w.extractLsb' 6 6).extractLsb' 0 3 = w.extractLsb' 6 3 := by
  ext i hi
  simp [show i < 6 by omega]

/-- Settles O15: jump, destination mask and comp[2:0] lie in bits 8..0, and the step reads no more of the word. -/
theorem behaviourDependsOnNineBits : Obligations.BehaviourDependsOnNineBits := by
  intro w1 w2 hw1 hw2 hlow s
  have hfield {start len : Nat} (h : start + len ≤ 9) : w1.extractLsb' start len = w2.extractLsb' start len := by
    rw [extractLsb'_of_low_nine w1 h, hlow, ← extractLsb'_of_low_nine w2 h]
  rw [exec_decode, exec_decode, decodeRecord_of_compute hw1, decodeRecord_of_compute hw2,
    hfield (start := 3) (by decide), hfield (start := 0) (len := 3) (by decide), stepRecord_compute,
    stepRecord_compute]
  refine congrArg _ (computeStep_eq_of_value_eq _ _ _ _ ?_)
  rw [computeValue_default, computeValue_default, comp_low_of_word, comp_low_of_word, hfield (by decide)]

/-! ## The jump decision -/

theorem word_eq_zero_iff_toNat (v : Word) : v = 0 ↔ v.toNat = 0 := BitVec.toNat_inj.symm

/-- The signed number of a value, by the range its unsigned number is in. -/
theorem jumpNumber_signed_eq (v : Word) :
    jumpNumber true v = if v.toNat < 0x8000 then (v.toNat : Int) else (v.toNat : Int) - 0x10000 := rfl

theorem jumpNumber_eq_zero_iff (js : Bool) (v : Word) : jumpNumber js v = 0 ↔ v = 0 := by
  have hlt := v.isLt
  rw [word_eq_zero_iff_toNat]
  cases js with
  | false => rw [jumpNumber_unsigned, Int.natCast_eq_zero]
  | true =>
    rw [jumpNumber_signed_eq]
    split <;> omega

/-- JEQ is taken on 0 only, signed or not (R113). -/
theorem taken_jeq_iff (js : Bool) (v : Word) : taken js 2 v = true ↔ v = 0 := by
  rw [taken_jeq, decide_eq_true_iff, jumpNumber_eq_zero_iff]

/-- JNE is taken on all but 0, signed or not (R116). -/
theorem taken_jne_iff (js : Bool) (v : Word) : taken js 5 v = true ↔ v ≠ 0 := by
  rw [taken_jne, decide_eq_true_iff, Ne, jumpNumber_eq_zero_iff]

/-- Settles O26: codes 2 and 5 test the value for 0, which both readings agree on. -/
theorem signFreeJumpCodes : Obligations.SignFreeJumpCodes :=
  fun js v => ⟨taken_none js v, taken_jeq_iff js v, taken_jne_iff js v, taken_jmp js v⟩

/-- Settles O28: an unsigned value is never negative, so it is positive exactly when it is not 0. -/
theorem unsignedJumpCodesCollapse : Obligations.UnsignedJumpCodesCollapse := by
  intro v
  have hnonneg : 0 ≤ jumpNumber false v := Int.natCast_nonneg _
  rw [taken_jgt, taken_jne, taken_jge, taken_jmp, taken_jlt, taken_none, taken_jle, taken_jeq, decide_eq_decide,
    decide_eq_true_iff, decide_eq_false_iff_not, decide_eq_decide]
  omega

section Signed

variable (v : Word)

theorem jumpNumber_signed_neg_iff : jumpNumber true v < 0 ↔ 0x8000 ≤ v.toNat := by
  have hlt := v.isLt
  rw [jumpNumber_signed_eq]
  split <;> omega

/-- JGE is taken on 0x0000..0x7FFF (R114). -/
theorem taken_jge_iff : taken true 3 v = true ↔ v.toNat ≤ 0x7FFF := by
  rw [taken_jge, decide_eq_true_iff, ge_iff_le, ← not_lt, jumpNumber_signed_neg_iff]
  omega

/-- JLT is taken on 0x8000..0xFFFF (R115). -/
theorem taken_jlt_iff : taken true 4 v = true ↔ 0x8000 ≤ v.toNat := by
  rw [taken_jlt, decide_eq_true_iff, jumpNumber_signed_neg_iff]

/-- JLE is taken on 0 and on 0x8000..0xFFFF (R117). -/
theorem taken_jle_iff : taken true 6 v = true ↔ v = 0 ∨ 0x8000 ≤ v.toNat := by
  rw [taken_jle, decide_eq_true_iff, le_iff_eq_or_lt, jumpNumber_eq_zero_iff, jumpNumber_signed_neg_iff]

/-- JGT is taken on 0x0001..0x7FFF (R112). -/
theorem taken_jgt_iff : taken true 1 v = true ↔ 0x0001 ≤ v.toNat ∧ v.toNat ≤ 0x7FFF := by
  rw [taken_jgt, decide_eq_true_iff, gt_iff_lt, ← not_le, le_iff_eq_or_lt, jumpNumber_eq_zero_iff,
    jumpNumber_signed_neg_iff, word_eq_zero_iff_toNat]
  omega

/-- The signed decision is the one of the code's three bits (R119). -/
theorem taken_signed_eq_jumpHolds (jump : BitVec 3) : taken true jump v = jumpHolds jump v := by
  rw [Bool.eq_iff_iff, jumpHolds]
  obtain rfl | rfl | rfl | rfl | rfl | rfl | rfl | rfl := bitVec3_cases jump
  · rw [taken_none]; simp
  · rw [taken_jgt, jumpNumber_signed]; simp
  · rw [taken_jeq, jumpNumber_signed]; simp
  · rw [taken_jge, jumpNumber_signed]; simp; omega
  · rw [taken_jlt, jumpNumber_signed]; simp
  · rw [taken_jne, jumpNumber_signed]; simp
  · rw [taken_jle, jumpNumber_signed]; simp; omega
  · rw [taken_jmp]; simp; omega

end Signed

/-- Settles O27: the four ranges, and the three bits of the code. -/
theorem signedJumpCodes : Obligations.SignedJumpCodes := fun v =>
  ⟨taken_jgt_iff v, taken_jge_iff v, taken_jlt_iff v, taken_jle_iff v, taken_signed_eq_jumpHolds v⟩

/-! ## The state after a compute-instruction -/

@[simp] theorem romRead_computeStep (cfg : Config) (a : BitVec 1) (comp : BitVec 6) (dest jump : BitVec 3) (s : State) :
    romRead (computeStep cfg a comp dest jump s) = romRead s := by
  funext addr
  rw [romRead, computeStep_rom, romRead]

theorem ramCell_toNat (cfg : Config) (v : Word) : (ramCell cfg v).toNat = v.toNat % 2 ^ cfg.ramCellBits % 65536 :=
  BitVec.toNat_ofNat _ 16

/-- Settles O24: one rule for each register and memory. -/
theorem destinationsReceiveTheValue : Obligations.DestinationsReceiveTheValue := by
  intro cfg a comp dest jump s
  rw [stepRecord_compute]
  refine ⟨computeStep_a .., computeStep_d .., computeStep_pc .., congrFun (romRead_computeStep ..), fun addr => ?_⟩
  rw [ramRead_computeStep, apply_ite BitVec.toNat, ramCell_toNat, destM]

/-- Without destination M a compute-instruction leaves RAM as it is (R107). -/
theorem computeStep_ram_of_not_destM {dest : BitVec 3} (h : destM dest = false) (cfg : Config) (a : BitVec 1)
    (comp : BitVec 6) (jump : BitVec 3) (s : State) : (computeStep cfg a comp dest jump s).ram = s.ram := by
  rw [computeStep_ram, h, if_neg Bool.false_ne_true]

/-- Settles O23: every compute row is `computeStep` of its record, which writes only what the destination mask names. -/
theorem computeFrame : Obligations.ComputeFrame := by
  intro i a comp dest jump s t hrecord ht
  rw [exec_eq_next_iff, hrecord, stepRecord_compute] at ht
  subst ht
  refine ⟨fun hA => ?_, fun hD => ?_, congrFun (romRead_computeStep ..), fun hM addr => ?_, fun addr haddr => ?_⟩
  · exact (computeStep_a ..).trans (if_neg (Bool.eq_false_iff.mp hA))
  · exact (computeStep_d ..).trans (if_neg (Bool.eq_false_iff.mp hD))
  · exact congrArg (Memory.read · addr.toNat) (computeStep_ram_of_not_destM hM ..)
  · have hne : addr ≠ (computeStep Config.default a comp dest jump s).a := (computeStep_a ..).symm ▸ haddr
    exact (ramRead_computeStep ..).trans (if_neg fun h => hne h.2)

/-! ## The result by the spec's tables -/

/-- The compute-instruction of the default machine does what the tables say (R123). -/
theorem computeStep_result (a : BitVec 1) (comp : BitVec 6) (dest jump : BitVec 3) (s : State) :
    ComputeResult (comp.extractLsb' 0 3) dest jump s (computeStep Config.default a comp dest jump s) := by
  rw [ComputeResult, ← computeValue_default, ← taken_signed_eq_jumpHolds]
  refine ⟨computeStep_a .., computeStep_d .., ?_, congrFun (romRead_computeStep ..), fun addr => ?_⟩
  · rw [computeStep_pc, apply_ite BitVec.toNat]
    exact if_congr Iff.rfl rfl (BitVec.toNat_add s.pc 1)
  · rw [ramRead_computeStep, ramCell_default, destM]

/-- Every instruction that stands for a compute record completes with the tables' result. -/
theorem exec_compute_result {i : Instr} {a : BitVec 1} {comp : BitVec 6} {dest jump : BitVec 3}
    (h : i.record = .compute a comp dest jump) (s : State) :
    ∃ t, exec i s = .next t ∧ ComputeResult (comp.extractLsb' 0 3) dest jump s t :=
  ⟨_, exec_eq_next_iff.mpr (by rw [h, stepRecord_compute]), computeStep_result a comp dest jump s⟩

/-- Settles O18: row `C` stands for its own record. -/
theorem computeInstructionResult : Obligations.ComputeInstructionResult :=
  fun _ _ _ _ => exec_compute_result rfl

/-- Settles O19: each row stands for the record with its destination mask. -/
theorem destRowsResult : Obligations.DestRowsResult := fun _ _ _ s =>
  ⟨exec_compute_result rfl s, exec_compute_result rfl s, exec_compute_result rfl s, exec_compute_result rfl s,
    exec_compute_result rfl s, exec_compute_result rfl s, exec_compute_result rfl s, exec_compute_result rfl s⟩

/-- Such an instruction goes to its new A exactly where its jump is taken, by whatever condition says where that is. -/
theorem exec_jump_result {i : Instr} {a : BitVec 1} {comp : BitVec 6} {dest jump : BitVec 3}
    (h : i.record = .compute a comp dest jump) (s : State) {P : Prop} [Decidable P]
    (hP : taken true jump (tableValue dest (comp.extractLsb' 0 3) s.d s.a) = true ↔ P) :
    ∃ t, exec i s = .next t ∧ ComputeResult (comp.extractLsb' 0 3) dest jump s t
      ∧ t.pc = if P then t.a else s.pc + 1 := by
  refine ⟨_, exec_eq_next_iff.mpr (by rw [h, stepRecord_compute]), computeStep_result a comp dest jump s, ?_⟩
  rw [← computeValue_default] at hP
  exact (computeStep_pc ..).trans (if_congr hP rfl rfl)

/-- Settles O20: each row stands for the record with its jump code, and its condition is the range the code names. -/
theorem jumpRowsResult : Obligations.JumpRowsResult := by
  intro a comp dest s v
  refine ⟨?none, exec_jump_result rfl s (taken_jgt_iff v), exec_jump_result rfl s (taken_jeq_iff true v),
    exec_jump_result rfl s (taken_jge_iff v), exec_jump_result rfl s (taken_jlt_iff v),
    exec_jump_result rfl s (taken_jne_iff true v), exec_jump_result rfl s (taken_jle_iff v), ?jmp⟩
  case none => exact exec_jump_result (P := False) rfl s (iff_false_intro (Bool.eq_false_iff.mp (taken_none true v)))
  case jmp => exact exec_jump_result (P := True) rfl s (iff_true_intro (taken_jmp true v))

/-! ## A jump to itself -/

/-- A jump to the instruction's own address, without destination, changes nothing (R124). -/
theorem computeStep_eq_self {cfg : Config} {a : BitVec 1} {comp : BitVec 6} {jump : BitVec 3} {s : State}
    (htaken : taken cfg.jumpSigned jump (computeValue cfg comp 0 s) = true) (hpc : s.a = s.pc) :
    computeStep cfg a comp 0 jump s = s := by
  calc computeStep cfg a comp 0 jump s
      = setPc s (if taken cfg.jumpSigned jump (computeValue cfg comp 0 s) then s.a else s.pc + 1) := rfl
    _ = setPc s s.pc := by rw [if_pos htaken, hpc]
    _ = s := rfl

/-- A run from a fixed point of the step ends in it (R187). -/
theorem run_of_atEnd {s : State} (h : AtEnd s) (n : Nat) : Host.Core.run Sys2Proof.core n s = .next s := by
  induction n with
  | zero => rfl
  | succ n ih => exact (run_succ_of_step (M := Sys2Proof.core) h n).trans ih

/-- Settles O31: the state is a fixed point of the step. -/
theorem fixedPointOfAJumpToItself : Obligations.FixedPointOfAJumpToItself := by
  intro s a comp jump hrecord htaken hpc
  have hend : AtEnd s :=
    calc step s = .next (stepRecord Config.default (.compute a comp 0 jump) s) := hrecord ▸ step_eq_stepWith s
      _ = .next s := congrArg _ (computeStep_eq_self (a := a) htaken hpc)
  exact ⟨hend, run_of_atEnd hend⟩

/-! ## States that differ in RAM -/

/-- The registers and ROM after a compute-instruction depend on RAM through the value alone. -/
theorem computeStep_sameButRam {cfg : Config} {comp : BitVec 6} {dest : BitVec 3} {s t : State} (h : SameButRam s t)
    (hvalue : computeValue cfg comp dest s = computeValue cfg comp dest t) (a : BitVec 1) (jump : BitVec 3) :
    SameButRam (computeStep cfg a comp dest jump s) (computeStep cfg a comp dest jump t) := by
  obtain ⟨ha, hd, hpc, hrom⟩ := h
  have ha' : (computeStep cfg a comp dest jump s).a = (computeStep cfg a comp dest jump t).a := by
    rw [computeStep_a, computeStep_a, hvalue, ha]
  refine ⟨ha', ?_, ?_, ?_⟩
  · rw [computeStep_d, computeStep_d, hvalue, hd]
  · rw [computeStep_pc, computeStep_pc, hvalue, ha', hpc]
  · rw [computeStep_rom, computeStep_rom, hrom]

/-- Settles O25: without destination M the `y` operand is A, and RAM is not written either. -/
theorem ramIsReadOnlyForDestM : Obligations.RamIsReadOnlyForDestM := by
  intro cfg a comp dest jump s t hM h
  have hy (u : State) : yOperand dest u = u.a := if_neg (Bool.eq_false_iff.mp hM)
  have hvalue : computeValue cfg comp dest s = computeValue cfg comp dest t := by
    obtain ⟨ha, hd, -⟩ := h
    exact computeValue_congr cfg comp hd (by rw [hy, hy, ha])
  exact ⟨computeStep_sameButRam h hvalue a jump, computeStep_ram_of_not_destM hM cfg a comp jump s,
    computeStep_ram_of_not_destM hM cfg a comp jump t⟩

/-- The value of the default machine does not depend on RAM at all (R104). -/
theorem computeValue_default_of_sameButRam {s t : State} (h : SameButRam s t) (comp : BitVec 6) (dest : BitVec 3) :
    computeValue Config.default comp dest s = computeValue Config.default comp dest t := by
  obtain ⟨ha, hd, -⟩ := h
  rw [computeValue_default, computeValue_default, ha, hd]

/-- Two states that agree in everything but RAM agree so after a transition of the default machine. -/
theorem stepRecord_sameButRam {s t : State} (h : SameButRam s t) (r : Record) :
    SameButRam (stepRecord Config.default r s) (stepRecord Config.default r t) := by
  cases r with
  | address operand =>
    obtain ⟨-, hd, hpc, hrom⟩ := h
    exact ⟨rfl, hd, congrArg (· + 1) hpc, hrom⟩
  | compute a comp dest jump => exact computeStep_sameButRam h (computeValue_default_of_sameButRam h comp dest) a jump

/-- A RAM cell that two such states agree on they agree on after the transition: both write the same value to the same
cell, or neither writes. -/
theorem ramRead_stepRecord_eq {s t : State} (h : SameButRam s t) (r : Record) {addr : Word}
    (haddr : ramRead s addr = ramRead t addr) :
    ramRead (stepRecord Config.default r s) addr = ramRead (stepRecord Config.default r t) addr := by
  obtain ⟨ha, -⟩ := stepRecord_sameButRam h r
  cases r with
  | address operand => exact haddr
  | compute a comp dest jump =>
    rw [stepRecord_compute, stepRecord_compute] at ha ⊢
    rw [ramRead_computeStep, ramRead_computeStep, ← ha, computeValue_default_of_sameButRam h, haddr]

/-- Two such states fetch the same word. -/
theorem fetch_of_sameButRam {s t : State} (h : SameButRam s t) : fetch s = fetch t := by
  obtain ⟨-, -, hpc, hrom⟩ := h
  rw [fetch, fetch, romRead, romRead, hpc, hrom]

/-- Settles O37, by induction on the length of the run: both runs execute the same record at every step. -/
theorem ramNeverReachesTheRegisters : Obligations.RamNeverReachesTheRegisters := by
  intro n
  induction n with
  | zero => exact fun s t h => ⟨s, t, rfl, rfl, h, fun _ haddr => haddr⟩
  | succ n ih =>
    intro s t h
    have hs := step_eq_stepWith s
    have ht := step_eq_stepWith t
    rw [stepWith] at hs ht
    rw [← fetch_of_sameButRam h] at ht
    obtain ⟨s', t', hrun_s, hrun_t, hsame, hram⟩ := ih _ _ (stepRecord_sameButRam h (decodeRecord (fetch s)))
    exact ⟨s', t', (run_succ_of_step (M := Sys2Proof.core) hs n).trans hrun_s,
      (run_succ_of_step (M := Sys2Proof.core) ht n).trans hrun_t, hsame,
      fun addr haddr => hram addr (ramRead_stepRecord_eq h _ haddr)⟩

end Sys2Proof.Machine
end

section
/-! The rows and the host's load: the `comp_` rows by their last column (R140), and what each move of the host does to
ROM (R150, R152). -/

namespace Sys2Proof.Machine

/-! ## The `comp_` rows -/

/-- Every instruction that stands for a compute record completes with the tables' result for the low three bits of the
record's code, under whatever name they go. -/
theorem exec_row_result {i : Instr} {a : BitVec 1} {comp : BitVec 6} {c dest jump : BitVec 3}
    (h : i.record = .compute a comp dest jump) (hc : comp.extractLsb' 0 3 = c) {s : State} :
    ∃ t, exec i s = .next t ∧ ComputeResult c dest jump s t :=
  hc ▸ exec_compute_result h s

/-- Settles O21: each row stands for the record with its code, whose low three bits are the last column of R140. -/
theorem compRowsResult : Obligations.CompRowsResult := by
  intro dest jump s
  and_intros <;> exact exec_row_result (by rfl) (by rfl)

/-- Settles O22: as for the rows without M; the flag in which the codes differ is read by nothing. -/
theorem compRowsOfMResult : Obligations.CompRowsOfMResult := by
  intro dest jump s
  and_intros <;> exact exec_row_result (by rfl) (by rfl)

/-! ## ROM and the host -/

/-- A load of a text that encodes is one write through the ROM port (R150). -/
theorem load_of_encodeText_ok {text : Text} {address : Nat} {h : Session} {w : Word} {t : SymbolTable}
    (haddr : address < 65536) (henc : encodeText text h.symbols = .ok (w, t)) :
    load text address h = .next { machine := romWrite h.machine (BitVec.ofNat 16 address) w, symbols := t } := by
  simp only [load, if_pos haddr, henc]

/-- A load of a text that does not encode reports the encoder's error (R150). -/
theorem load_of_encodeText_error {text : Text} {address : Nat} {h : Session} {e : HostError}
    (haddr : address < 65536) (henc : encodeText text h.symbols = .error e) :
    load text address h = .fault (.rejected e) := by
  simp only [load, if_pos haddr, henc]

/-- A ROM address below 65536 names the cell whose index it is. -/
theorem eq_ofNat_iff_toNat_eq {address : Nat} (haddr : address < 65536) (addr : Word) :
    addr = BitVec.ofNat 16 address ↔ addr.toNat = address := by
  rw [← BitVec.toNat_inj, BitVec.toNat_ofNat, Nat.mod_eq_of_lt haddr]

/-- Settles O41: a load answers as `encodeText` does, and its word goes through the ROM port. -/
theorem loadWritesOneRomCell : Obligations.LoadWritesOneRomCell := by
  intro cfg text address h haddr
  refine ⟨fun w t henc => ?_, fun e henc => load_of_encodeText_error haddr henc⟩
  refine ⟨_, load_of_encodeText_ok haddr henc, rfl, romWrite_a .., romWrite_d .., romWrite_pc .., romWrite_ram ..,
    fun addr => ?_⟩
  rw [romRead_romWrite]
  exact if_congr (eq_ofNat_iff_toNat_eq haddr addr) rfl rfl

/-- No move of the host but load and reset changes ROM (R45, R194). -/
theorem hostMove_rom {cfg : Config} {m : HostMove} {h h' : Session} (hm : hostMove cfg m h = .next h') :
    (∃ text address, m = .load text address) ∨ (∃ external, m = .reset external) ∨ h'.machine.rom = h.machine.rom := by
  cases m with
  | load text address => exact .inl ⟨text, address, rfl⟩
  | reset external => exact .inr (.inl ⟨external, rfl⟩)
  | step =>
    obtain rfl := Host.Outcome.next.inj hm
    exact .inr (.inr (stepRecord_rom ..))
  | inspect =>
    obtain rfl := Host.Outcome.next.inj hm
    exact .inr (.inr rfl)
  | externalRead addr =>
    cases hext : cfg.externalRam with
    | false => cases (hostMove_externalRead_refused hext h addr).symm.trans hm
    | true =>
      obtain rfl := Host.Outcome.next.inj ((hostMove_externalRead hext h addr).symm.trans hm)
      exact .inr (.inr rfl)
  | externalWrite addr v =>
    cases hext : cfg.externalRam with
    | false => cases (hostMove_externalWrite_refused hext h addr v).symm.trans hm
    | true =>
      obtain rfl := Host.Outcome.next.inj ((hostMove_externalWrite hext h addr v).symm.trans hm)
      exact .inr (.inr (ramWrite_rom ..))

/-- Settles O40: a step executes the word it fetches, and a move that leaves ROM alone leaves every read of it. -/
theorem loadedWordIsFetched : Obligations.LoadedWordIsFetched := by
  refine ⟨fun s w => by rw [step, fetch_romWrite_pc], fun cfg m h h' hm ⟨addr, hne⟩ => ?_⟩
  obtain hload | hreset | hrom := hostMove_rom hm
  · exact .inl hload
  · exact .inr hreset
  · exact absurd (congrArg (Memory.read · addr.toNat) hrom) hne

end Sys2Proof.Machine
end

section
/-! The symbol table of an assembly session: a look-up keeps what is recorded (R133), and the table a session leaves is
the predefined one with its new names at 16, 17 and so on (R135). -/

namespace Sys2Proof.Machine

/-! ## One look-up -/

/-- A look-up removes nothing: every key keeps its address (R133). -/
theorem lookup_allocateOrGet_of_lookup {t : SymbolTable} {other : Text} {addr : Nat}
    (h : t.map.lookup other = some addr) (name : Text) :
    (allocateOrGet t name).2.map.lookup other = some addr := by
  cases hname : t.map.lookup name with
  | some a => rwa [allocateOrGet_known hname]
  | none => rw [allocateOrGet_new hname, List.lookup_append, h, Option.some_or]

/-- After a look-up its name is a key, at the address it answered (R133). -/
theorem lookup_allocateOrGet_self (t : SymbolTable) (name : Text) :
    (allocateOrGet t name).2.map.lookup name = some (allocateOrGet t name).1 := by
  cases hname : t.map.lookup name with
  | some a => rwa [allocateOrGet_known hname]
  | none => rw [allocateOrGet_new hname, List.lookup_append, hname, Option.none_or, List.lookup_cons_self]

/-- Settles O45: the look-up of a key answers from the table, and each look-up leaves its name a key. -/
theorem allocateOrGetIsStable : Obligations.AllocateOrGetIsStable := by
  refine ⟨rfl, fun t name => ⟨fun addr => allocateOrGet_known, fun hnew => ?_, fun other addr h =>
    lookup_allocateOrGet_of_lookup h name, allocateOrGet_known (lookup_allocateOrGet_self t name)⟩⟩
  have hself := lookup_allocateOrGet_self t name
  rw [allocateOrGet_new hnew] at hself ⊢
  exact ⟨rfl, rfl, hself⟩

/-! ## The table of a session -/

/-- The table in which the names `new`, none of them predefined, have the addresses from 16 on. -/
def sessionTable (new : List Text) : SymbolTable :=
  { map := predefinedSymbols ++ new.zip (List.range' 16 new.length), nextAllocation := 16 + new.length }

theorem lookup_eq_none_iff_not_mem_keys {t : List (Text × Nat)} {name : Text} :
    t.lookup name = none ↔ name ∉ t.map Prod.fst := by
  rw [List.lookup_eq_none_iff, List.mem_map]
  constructor
  · rintro h ⟨entry, hentry, rfl⟩
    simpa using h entry hentry
  · intro h entry hentry
    exact bne_iff_ne.mpr fun heq => h ⟨entry, hentry, heq.symm⟩

/-- A name has no address in a session's table when it is neither predefined nor one of the new names. -/
theorem lookup_sessionTable_eq_none_iff {new : List Text} {name : Text} :
    (sessionTable new).map.lookup name = none ↔ predefinedSymbols.lookup name = none ∧ name ∉ new := by
  have hkeys : (new.zip (List.range' 16 new.length)).map Prod.fst = new :=
    List.map_fst_zip (List.length_range').ge
  rw [sessionTable, List.lookup_append, Option.or_eq_none_iff,
    lookup_eq_none_iff_not_mem_keys (t := new.zip _), hkeys]

/-- One more new name is one more entry, at the next address. -/
theorem sessionTable_concat (new : List Text) (name : Text) :
    sessionTable (new ++ [name]) =
      { map := (sessionTable new).map ++ [(name, (sessionTable new).nextAllocation)]
        nextAllocation := (sessionTable new).nextAllocation + 1 } := by
  have hentries : (new ++ [name]).zip (List.range' 16 (new.length + 1))
      = new.zip (List.range' 16 new.length) ++ [(name, 16 + new.length)] := by
    rw [List.range'_1_concat, List.zip_append List.length_range'.symm]
    rfl
  simp only [sessionTable, List.length_append, List.length_singleton, hentries, List.append_assoc, Nat.add_assoc]

/-- The last element of a list counts as new when it does not stand before. -/
theorem eraseDups_concat (l : List Text) (name : Text) :
    (l ++ [name]).eraseDups = if name ∈ l then l.eraseDups else l.eraseDups ++ [name] := by
  rw [List.eraseDups_append]
  split_ifs with hmem <;> simp [List.removeAll, hmem, List.eraseDups_cons]

/-- The last name of a session is new when the table of the names before has no address for it. -/
theorem newNames_concat (names : List Text) (name : Text) :
    newNames (names ++ [name]) =
      if (sessionTable (newNames names)).map.lookup name = none then newNames names ++ [name] else newNames names := by
  rw [if_congr lookup_sessionTable_eq_none_iff rfl rfl]
  cases hname : predefinedSymbols.lookup name with
  | some addr => simp [newNames, List.filter_append, hname]
  | none =>
    simp only [newNames, List.filter_append, List.filter_singleton, hname, Option.isNone_none, true_and,
      List.mem_eraseDups, ite_not, cond_true, eraseDups_concat]

theorem lookupAll_concat (names : List Text) (name : Text) :
    lookupAll (names ++ [name]) = (allocateOrGet (lookupAll names) name).2 := List.foldl_concat ..

/-- The table of a session, by induction on the look-ups: a known name changes nothing, a new one gets the next
address. -/
theorem lookupAll_eq_sessionTable (names : List Text) : lookupAll names = sessionTable (newNames names) := by
  induction names using List.reverseRecOn with
  | nil => rfl
  | append_singleton names name ih =>
    rw [lookupAll_concat, newNames_concat, ih]
    cases hname : (sessionTable (newNames names)).map.lookup name with
    | some addr => rw [allocateOrGet_known hname, if_neg (Option.some_ne_none addr)]
    | none => rw [allocateOrGet_new hname, if_pos rfl, sessionTable_concat]

/-- The i-th new name of a session has the address 16 + i: it got it when it was new, and keeps it. -/
theorem lookup_newName {names : List Text} {i : Nat} {name : Text} (h : (newNames names)[i]? = some name) :
    (lookupAll names).map.lookup name = some (16 + i) := by
  induction names using List.reverseRecOn with
  | nil => cases h
  | append_singleton names last ih =>
    rw [lookupAll_concat]
    rw [newNames_concat] at h
    split_ifs at h with hlast
    · obtain h | ⟨hi, rfl⟩ : (newNames names)[i]? = some name ∨ i = (newNames names).length ∧ last = name := by
        grind
      · exact lookup_allocateOrGet_of_lookup (ih h) last
      · rw [lookup_allocateOrGet_self, lookupAll_eq_sessionTable, allocateOrGet_new hlast, hi, sessionTable]
    · exact lookup_allocateOrGet_of_lookup (ih h) last

/-- The addresses a session's table has allocated. -/
theorem allocated_sessionTable (new : List Text) : allocated (sessionTable new) = List.range' 16 new.length := by
  rw [allocated, sessionTable, List.drop_left, List.map_snd_zip (List.length_range').le]

/-- The predefined addresses are below the first allocated one, or SCREEN and KBD, from 16384 on (R132). -/
theorem predefined_address_cases : ∀ addr ∈ predefinedSymbols.map Prod.snd, addr < 16 ∨ 16384 ≤ addr := by decide

/-- Settles O46: the table a session leaves is `sessionTable` of its new names. -/
theorem allocatedAddressesCountFromSixteen : Obligations.AllocatedAddressesCountFromSixteen := by
  intro names
  refine ⟨?_, ?_, ?_, fun i hi => lookup_newName (List.getElem?_eq_getElem hi), ?_, fun hlen addr haddr hpre => ?_⟩
  · rw [lookupAll_eq_sessionTable, sessionTable]
  · rw [lookupAll_eq_sessionTable, allocated_sessionTable]
  · rw [lookupAll_eq_sessionTable, sessionTable]
  · rw [lookupAll_eq_sessionTable, sessionTable, List.take_left]
  · rw [lookupAll_eq_sessionTable, allocated_sessionTable, List.mem_range'_1] at haddr
    have hcases := predefined_address_cases addr hpre
    omega

end Sys2Proof.Machine
end

section
/-! The text encoder: the three kinds of text after `@` (R137 to R139), the parts of a compute text (R144), and the
error class of each (R147). -/

namespace Sys2Proof.Machine

/-! ## The address form -/

theorem operandWord_of_lt {v : Nat} (h : v < 32768) : operandWord v = .ok (BitVec.ofNat 16 v) := if_pos h

theorem operandWord_of_le {v : Nat} (h : 32768 ≤ v) : operandWord v = .error .rangeError := if_neg (not_lt.mpr h)

/-- What a literal encodes to: the word of its number, with the table as it was (R138). -/
theorem encodeAddress_literal {rest : Text} (hne : rest ≠ []) (hdigits : ∀ c ∈ rest, isDigitChar c = true)
    (t : SymbolTable) : encodeAddress rest t = (operandWord (decimal rest)).map (·, t) := by
  rw [encodeAddress, if_pos (by simpa [hne] using hdigits)]
  cases operandWord (decimal rest) <;> rfl

/-- What a symbol encodes to: the word of its address, with the table after its look-up (R139). -/
theorem encodeAddress_symbol {rest : Text} (hne : rest ≠ []) (hdigits : ¬ ∀ c ∈ rest, isDigitChar c = true)
    (hname : ∀ c ∈ rest, isNameChar c = true) (t : SymbolTable) :
    encodeAddress rest t = (operandWord (allocateOrGet t rest).1).map (·, (allocateOrGet t rest).2) := by
  rw [encodeAddress, if_neg (by simpa [hne] using hdigits), if_pos (by simpa [hne] using hname)]
  cases operandWord (allocateOrGet t rest).1 <;> rfl

/-- Anything else after `@` is a SyntaxError (R137). -/
theorem encodeAddress_malformed {rest : Text}
    (h : ¬ (rest ≠ [] ∧ ((∀ c ∈ rest, isDigitChar c = true) ∨ ∀ c ∈ rest, isNameChar c = true))) (t : SymbolTable) :
    encodeAddress rest t = .error .syntaxError := by
  rw [not_and, not_or] at h
  rw [encodeAddress, if_neg, if_neg]
  · simpa using fun hne => h hne |>.2
  · simpa using fun hne => h hne |>.1

theorem operandWord_map_ne_syntaxError {α : Type} (v : Nat) (f : Word → α) :
    (operandWord v).map f ≠ .error .syntaxError := by
  intro h
  obtain hv | hv := lt_or_ge v 32768
  · rw [operandWord_of_lt hv] at h
    cases h
  · rw [operandWord_of_le hv] at h
    cases h

/-- After `@`, a SyntaxError is exactly a wrong shape (R137, D15). -/
theorem encodeAddress_eq_syntaxError_iff (rest : Text) (t : SymbolTable) :
    encodeAddress rest t = .error .syntaxError
      ↔ ¬ (rest ≠ [] ∧ ((∀ c ∈ rest, isDigitChar c = true) ∨ ∀ c ∈ rest, isNameChar c = true)) := by
  refine ⟨fun herr hshape => ?_, fun h => encodeAddress_malformed h t⟩
  obtain ⟨hne, hchars⟩ := hshape
  by_cases hdigits : ∀ c ∈ rest, isDigitChar c = true
  · rw [encodeAddress_literal hne hdigits] at herr
    exact operandWord_map_ne_syntaxError _ _ herr
  · rw [encodeAddress_symbol hne hdigits (hchars.resolve_left hdigits)] at herr
    exact operandWord_map_ne_syntaxError _ _ herr

/-! ## Literals -/

theorem isDigitChar_eq_isDigit (c : Char) : isDigitChar c = c.isDigit := rfl

/-- `decimal` reads what `Nat.toDigits` writes. -/
theorem decimal_toDigits (v : Nat) : decimal (Nat.toDigits 10 v) = v := Nat.ofDigitChars_ten_toDigits

theorem encodeText_literal (v : Nat) (t : SymbolTable) :
    encodeText ('@' :: Nat.toDigits 10 v) t = (operandWord v).map (·, t) := by
  have hdigits : ∀ c ∈ Nat.toDigits 10 v, isDigitChar c = true := fun c hc =>
    isDigitChar_eq_isDigit c ▸ Nat.isDigit_of_mem_toDigits (by decide) (by decide) hc
  rw [encodeText, encodeAddress_literal Nat.toDigits_ne_nil hdigits, decimal_toDigits]

/-- The word of a number below 32768 is the address word of that number (R138). -/
theorem decodeRecord_ofNat {v : Nat} (h : v < 32768) :
    decodeRecord (BitVec.ofNat 16 v) = .address (BitVec.ofNat 15 v) := by
  have hnat : (BitVec.ofNat 16 v).toNat = v := Nat.mod_eq_of_lt (by omega)
  rw [decodeRecord_of_address (variant_eq_false_iff.mpr (hnat.symm ▸ h))]
  refine congrArg _ (BitVec.eq_of_toNat_eq ?_)
  rw [extractLsb'_toNat_eq_div_mod, hnat, BitVec.toNat_ofNat, Nat.pow_zero, Nat.div_one]

/-- Settles O47: a literal is the word of the number its digits write. -/
theorem literalsAssembleToThemselves : Obligations.LiteralsAssembleToThemselves := by
  intro v t
  rw [encodeText_literal]
  constructor
  · intro hv
    rw [operandWord_of_lt hv]
    exact ⟨_, rfl, decodeRecord_ofNat hv, Nat.mod_eq_of_lt (by omega)⟩
  · intro hv
    rw [operandWord_of_le hv]
    rfl

/-! ## The compute form -/

/-- A text that does not begin with `@` is a compute text and leaves the table (R144). -/
theorem encodeText_of_head?_ne {text : Text} (h : text.head? ≠ some '@') (t : SymbolTable) :
    encodeText text t = (encodeCompute text).map (·, t) := by
  unfold encodeText
  split
  · exact absurd rfl h
  · cases encodeCompute text <;> rfl

/-- Every fault of a compute text is a SyntaxError (R147). -/
theorem encodeCompute_error {text : Text} {e : HostError} (h : encodeCompute text = .error e) : e = .syntaxError := by
  simp only [encodeCompute] at h
  split at h
  · cases h
  · exact (Except.error.inj h).symm

/-- Settles O49: a compute text has the one error class, and after `@` the shape decides. -/
theorem encodeErrorsHaveTheirClass : Obligations.EncodeErrorsHaveTheirClass := by
  refine ⟨fun text t e hhead herr => ?_, fun rest t => encodeAddress_eq_syntaxError_iff rest t⟩
  rw [encodeText_of_head?_ne hhead] at herr
  cases hcompute : encodeCompute text with
  | ok w =>
    rw [hcompute] at herr
    cases herr
  | error e' =>
    rw [hcompute] at herr
    exact (Except.error.inj herr) ▸ encodeCompute_error hcompute

/-! ## The parts of a compute text -/

/-- A text without the three characters that mark the parts of an instruction text. -/
def noMarks (t : Text) : Bool := !t.contains '@' && !t.contains '=' && !t.contains ';'

theorem noMarks_iff {t : Text} : noMarks t = true ↔ '@' ∉ t ∧ '=' ∉ t ∧ ';' ∉ t := by
  simp [noMarks, and_assoc]

/-- The text of given parts (R144). -/
def ComputeText.join : ComputeText → Text
  | ⟨none, comp, none⟩ => comp
  | ⟨some dest, comp, none⟩ => dest ++ '=' :: comp
  | ⟨none, comp, some jump⟩ => comp ++ ';' :: jump
  | ⟨some dest, comp, some jump⟩ => dest ++ '=' :: (comp ++ ';' :: jump)

/-- A text without a mark has no first place of it. -/
theorem findIdx?_of_not_mem {mark : Char} {t : Text} (h : mark ∉ t) : t.findIdx? (· == mark) = none := by
  rw [List.findIdx?_eq_none_iff]
  exact fun c hc => beq_eq_false_iff_ne.mpr fun heq => h (heq ▸ hc)

/-- The first place of a mark is after the text that has none. -/
theorem findIdx?_mark {mark : Char} {before : Text} (h : mark ∉ before) (after : Text) :
    (before ++ mark :: after).findIdx? (· == mark) = some before.length := by
  simp [List.findIdx?_append, List.findIdx?_cons, findIdx?_of_not_mem h]

section Join

variable {p : ComputeText} (hdest : p.dest.all noMarks = true) (hcomp : noMarks p.comp = true)
  (hjump : p.jump.all noMarks = true)

include hdest hcomp hjump

/-- Splitting finds the parts a text was joined from, when no part holds a mark. -/
theorem splitCompute_join : splitCompute p.join = p := by
  obtain ⟨dest, comp, jump⟩ := p
  obtain ⟨-, hce, hcs⟩ := noMarks_iff.mp hcomp
  cases dest with
  | none =>
    cases jump with
    | none => simp [ComputeText.join, splitCompute, findIdx?_of_not_mem hce, findIdx?_of_not_mem hcs]
    | some jump =>
      obtain ⟨-, hje, -⟩ := noMarks_iff.mp hjump
      have hequals : '=' ∉ comp ++ ';' :: jump := by simp [hce, hje]
      simp [ComputeText.join, splitCompute, findIdx?_of_not_mem hequals, findIdx?_mark hcs]
  | some dest =>
    obtain ⟨-, hde, hds⟩ := noMarks_iff.mp hdest
    have hsemi : ';' ∉ dest ++ '=' :: comp := by simp [hds, hcs]
    have hlen : dest.length + (comp.length + 1) - (dest.length + 1) = comp.length := by omega
    cases jump with
    | none => simp [ComputeText.join, splitCompute, findIdx?_mark hde, findIdx?_of_not_mem hsemi, hlen]
    | some jump =>
      have hsplit := findIdx?_mark hsemi jump
      have hafter : ((dest ++ '=' :: comp) ++ ';' :: jump).drop ((dest ++ '=' :: comp).length + 1) = jump := by
        rw [← List.drop_drop, List.drop_left, List.drop_one, List.tail_cons]
      simp only [List.append_assoc, List.cons_append, List.length_append, List.length_cons] at hsplit hafter
      simp [ComputeText.join, splitCompute, findIdx?_mark hde, hsplit, hafter, hlen]

/-- Parts without marks join to a text that does not begin with `@`. -/
theorem head?_join_ne : p.join.head? ≠ some '@' := by
  refine fun hhead => absurd (List.mem_of_head? hhead) ?_
  obtain ⟨dest, comp, jump⟩ := p
  obtain ⟨hca, -, -⟩ := noMarks_iff.mp hcomp
  cases dest with
  | none =>
    cases jump with
    | none => exact hca
    | some jump =>
      obtain ⟨hja, -, -⟩ := noMarks_iff.mp hjump
      simp [ComputeText.join, hca, hja]
  | some dest =>
    obtain ⟨hda, -, -⟩ := noMarks_iff.mp hdest
    cases jump with
    | none => simp [ComputeText.join, hda, hca]
    | some jump =>
      obtain ⟨hja, -, -⟩ := noMarks_iff.mp hjump
      simp [ComputeText.join, hda, hca, hja]

/-- What the text of given parts encodes to (R140, R142, R143, R62). -/
theorem encodeText_join {code : BitVec 7} {mask jump : BitVec 3} (hcode : compTable.lookup p.comp = some code)
    (hmask : destCode p.dest = some mask) (hjcode : jumpCode p.jump = some jump) (t : SymbolTable) :
    encodeText p.join t = .ok (pack (.compute (code.extractLsb' 6 1) (code.extractLsb' 0 6) mask jump), t) := by
  rw [encodeText_of_head?_ne (head?_join_ne hdest hcomp hjump)]
  simp only [encodeCompute, splitCompute_join hdest hcomp hjump, hcode, hmask, hjcode]
  rfl

end Join

/-! ## The tables of the compute form -/

theorem compTable_entry : ∀ entry ∈ compTable, compTable.lookup entry.1 = some entry.2 ∧ noMarks entry.1 = true := by
  decide

theorem jumpTable_entry : ∀ entry ∈ jumpTable, jumpTable.lookup entry.1 = some entry.2 ∧ noMarks entry.1 = true := by
  decide

/-- A text with a destination mask is of the letters A, D, M. -/
theorem noMarks_of_destMask {dest : Text} {mask : BitVec 3} (h : destMask dest = some mask) : noMarks dest = true := by
  unfold destMask at h
  split at h
  case isFalse => cases h
  case isTrue hletters =>
    have hletter : ∀ c ∈ dest, c = 'A' ∨ c = 'D' ∨ c = 'M' := by simpa [or_assoc] using hletters
    exact noMarks_iff.mpr ⟨fun h => by simpa using hletter _ h, fun h => by simpa using hletter _ h,
      fun h => by simpa using hletter _ h⟩

/-- Settles O48: each of the four texts is the join of its parts. -/
theorem mnemonicTextsAssemble : Obligations.MnemonicTextsAssemble := by
  intro m code d mask j jump t hm hmask hj
  obtain ⟨hcode, hcomp⟩ := compTable_entry _ hm
  obtain ⟨hjcode, hjump⟩ := jumpTable_entry _ hj
  have hdest := noMarks_of_destMask hmask
  exact ⟨encodeText_join (p := ⟨none, m, none⟩) rfl hcomp rfl hcode rfl rfl t,
    encodeText_join (p := ⟨some d, m, none⟩) hdest hcomp rfl hcode hmask rfl t,
    encodeText_join (p := ⟨none, m, some j⟩) rfl hcomp hjump hcode rfl hjcode t,
    encodeText_join (p := ⟨some d, m, some j⟩) hdest hcomp hjump hcode hmask hjcode t⟩

end Sys2Proof.Machine
end

section
/-! The reset family: every move of the host keeps the invariant of its configuration, and the cases of a clock edge. -/

namespace Sys2Proof.Machine

variable {cfg : Config} {s : State}

/-! ## Cells of RAM_CELL_BITS bits -/

/-- Every value a supplied memory lists is one of the owner's. -/
theorem Memory.mem_ofCells {k : Nat} {vs : List Word} {c : MemCell} (h : c ∈ Memory.ofCells k vs) : c.2 ∈ vs := by
  induction vs generalizing k with
  | nil => cases h
  | cons v vs ih =>
    rw [Memory.ofCells] at h
    split at h
    · exact List.mem_cons_of_mem v (ih h)
    · obtain rfl | h := List.mem_cons.mp h
      · exact List.mem_cons_self
      · exact List.mem_cons_of_mem v (ih h)

/-- A supplied memory cut to the cell width is in width (R34). -/
theorem Memory.fits_ofCells (cfg : Config) (k : Nat) (cells : List Word) :
    (Memory.ofCells k (cells.map (ramCell cfg))).fits cfg = true := by
  refine List.all_eq_true.mpr fun c hc => decide_eq_true ?_
  obtain ⟨v, -, hv⟩ := List.mem_map.mp (Memory.mem_ofCells hc)
  exact hv ▸ ramCell_toNat_lt cfg v

/-- Every transition keeps the RAM cells in width: what it stores goes through `ramCell`. -/
theorem stepRecord_ram_fits (hs : s.ram.fits cfg = true) (r : Record) : (stepRecord cfg r s).ram.fits cfg = true := by
  cases r with
  | address operand => exact hs
  | compute a comp dest jump =>
    rw [stepRecord, computeStep_ram]
    split
    · exact Memory.fits_write hs _ _
    · exact hs

/-! ## What keeps the invariant of a configuration -/

/-- A constructed machine meets the invariant, with or without an external RAM (R25, R44). -/
theorem construct_invFor {external : Option (List Word)} (h : construct cfg external = .next s) : InvFor cfg s := by
  obtain ⟨-, -, rfl⟩ | ⟨cells, -, -, hlen, rfl⟩ := construct_cases h
  · exact resetState_invFor Memory.wf_nil rfl
  · have hlen' : (cells.map (ramCell cfg)).length ≤ 65536 := (List.length_map _).trans_le hlen.le
    exact resetState_invFor (Memory.wf_ofCells hlen') (Memory.fits_ofCells cfg 0 cells)

theorem romWrite_invFor (hs : InvFor cfg s) (addr v : Word) : InvFor cfg (romWrite s addr v) := by
  obtain ⟨⟨hrom, hram⟩, hfits⟩ := hs
  exact ⟨⟨Memory.wf_write_word hrom addr v, hram⟩, hfits⟩

/-- A load that goes on meets the invariant again: it writes one ROM cell (R150). -/
theorem load_invFor {text : Text} {address : Nat} {h h' : Session} (hinv : InvFor cfg h.machine)
    (hl : load text address h = .next h') : InvFor cfg h'.machine := by
  obtain ⟨-, w, t, -, rfl⟩ := load_cases hl
  exact romWrite_invFor hinv _ w

theorem ramWrite_invFor (hs : InvFor cfg s) (addr v : Word) : InvFor cfg (ramWrite cfg s addr v) := by
  obtain ⟨⟨hrom, hram⟩, hfits⟩ := hs
  exact ⟨⟨hrom, Memory.wf_write_word hram addr _⟩, Memory.fits_write hfits addr.toNat v⟩

theorem stepWith_invFor (hs : InvFor cfg s) : InvFor cfg (stepWith cfg s) := by
  obtain ⟨hinv, hfits⟩ := hs
  exact ⟨stepRecord_inv hinv cfg _, stepRecord_ram_fits hfits _⟩

/-! ## The moves of the host -/

/-- What a move that goes on does to the session, one case per operation (R194). -/
theorem hostMove_cases {m : HostMove} {h h' : Session} (hm : hostMove cfg m h = .next h') :
    (∃ external s, m = .reset external ∧ construct cfg external = .next s ∧ h' = { h with machine := s })
      ∨ (∃ text address, m = .load text address ∧ load text address h = .next h')
      ∨ (m = .step ∧ h' = { h with machine := stepWith cfg h.machine })
      ∨ (∃ addr v, m = .externalWrite addr v ∧ cfg.externalRam = true
          ∧ h' = { h with machine := ramWrite cfg h.machine addr v })
      ∨ ((m = .inspect ∨ ∃ addr, m = .externalRead addr ∧ cfg.externalRam = true) ∧ h' = h) := by
  cases m with
  | reset external =>
    rw [hostMove] at hm
    split at hm
    · next s hs => exact .inl ⟨external, s, rfl, hs, (Host.Outcome.next.inj hm).symm⟩
    · cases hm
    · cases hm
  | load text address => exact .inr (.inl ⟨text, address, rfl, hm⟩)
  | step => exact .inr (.inr (.inl ⟨rfl, (Host.Outcome.next.inj hm).symm⟩))
  | externalWrite addr v =>
    cases hext : cfg.externalRam with
    | false => cases (hostMove_externalWrite_refused hext h addr v).symm.trans hm
    | true =>
      have heq := Host.Outcome.next.inj ((hostMove_externalWrite hext h addr v).symm.trans hm)
      exact .inr (.inr (.inr (.inl ⟨addr, v, rfl, rfl, heq.symm⟩)))
  | inspect => exact .inr (.inr (.inr (.inr ⟨.inl rfl, (Host.Outcome.next.inj hm).symm⟩)))
  | externalRead addr =>
    cases hext : cfg.externalRam with
    | false => cases (hostMove_externalRead_refused hext h addr).symm.trans hm
    | true =>
      have heq := Host.Outcome.next.inj ((hostMove_externalRead hext h addr).symm.trans hm)
      exact .inr (.inr (.inr (.inr ⟨.inr ⟨addr, rfl, rfl⟩, heq.symm⟩)))

/-- Settles O35, by what the move does to the machine. -/
theorem hostMovesKeepTheInvariant : Obligations.HostMovesKeepTheInvariant := by
  intro cfg m h h' hinv hm
  obtain ⟨external, s, -, hs, rfl⟩ | ⟨text, address, -, hl⟩ | ⟨-, rfl⟩ | ⟨addr, v, -, -, rfl⟩ | ⟨-, rfl⟩ :=
    hostMove_cases hm
  · exact construct_invFor hs
  · exact load_invFor hinv hl
  · exact stepWith_invFor hinv
  · exact ramWrite_invFor hinv addr v
  · exact hinv

/-! ## The clock edge -/

section ClockEdge

variable {i : ClockInputs}

/-- `rst` wins over the other inputs (R180). -/
theorem clockEdge_of_rst (cfg : Config) (hrst : i.rst = true) (s : State) :
    clockEdge cfg i s = .next (resetInput cfg s) := if_pos hrst

theorem clockEdge_of_stepEn_and_romWe (cfg : Config) (hrst : i.rst = false) (hstep : i.stepEn = true)
    (hrom : i.romWe = true) (s : State) : clockEdge cfg i s = .refused .overlappingHostOperations := by
  simp [clockEdge, hrst, hstep, hrom]

theorem clockEdge_of_romWe_alone (cfg : Config) (hrst : i.rst = false) (hstep : i.stepEn = false)
    (hrom : i.romWe = true) (s : State) : clockEdge cfg i s = .next (romWrite s i.romWaddr i.romWdata) := by
  simp [clockEdge, hrst, hstep, hrom]

theorem clockEdge_of_idle (cfg : Config) (hrst : i.rst = false) (hstep : i.stepEn = false)
    (hrom : i.romWe = false) (s : State) : clockEdge cfg i s = .next s := by
  simp [clockEdge, hrst, hstep, hrom]

end ClockEdge

/-- The reset input clears RAM, unless it is external (R182). -/
theorem ramRead_resetInput (cfg : Config) (s : State) (addr : Word) :
    ramRead (resetInput cfg s) addr = if cfg.externalRam then ramRead s addr else 0 := by
  rw [resetInput]
  split
  · rfl
  · exact Memory.read_nil addr.toNat

/-- Settles O42, by the inputs of the edge; the edge with `step_en` alone is O14's. -/
theorem clockEdgeCases : Obligations.ClockEdgeCases := by
  intro cfg i s
  refine ⟨fun hrst => ?_, fun hrst hstep hrom => clockEdge_of_stepEn_and_romWe cfg hrst hstep hrom s,
    fun hrst hstep hrom => ?_, fun hrst hstep hrom => clockEdge_of_idle cfg hrst hstep hrom s⟩
  · exact ⟨_, clockEdge_of_rst cfg hrst s, rfl, rfl, rfl, fun addr => Memory.read_nil addr.toNat,
      ramRead_resetInput cfg s⟩
  · exact ⟨_, clockEdge_of_romWe_alone cfg hrst hstep hrom s, romWrite_a .., romWrite_d .., romWrite_pc ..,
      romWrite_ram .., romRead_romWrite s i.romWaddr i.romWdata⟩

end Sys2Proof.Machine
end

section
/-! The words written out from the spec: what a word decodes to is fixed by its record (R72) and by the one
well-formed name of that record (log 8). -/

namespace Sys2Proof

/-- A word decodes to the well-formed instruction of its record and to no other. -/
theorem decode_eq_iff {w : Word} {i : Instr} :
    decode w = i ↔ decodeRecord w = i.record ∧ i.wellFormed = true := by
  constructor
  · rintro rfl
    exact ⟨(decode_record w).symm, decode_wellFormed w⟩
  · rintro ⟨hrecord, hwf⟩
    rw [decode, hrecord, record_instr hwf]

/-- Settles O2: each word has the fields of the instruction written beside it, and that instruction is well formed. -/
theorem writtenOutWordsDecode : Obligations.WrittenOutWordsDecode := by
  simp only [Obligations.WrittenOutWordsDecode, decode_eq_iff]
  decide

end Sys2Proof
end
